-- ==== Sys2Proof/Word.lean ====
section
/-! DEFINITION. The word types of the block: what the spec treats as bits (00_scope.md R10 to R13). -/

namespace Sys2Proof

/-- A bus word and a command word: 32 bits (20_memory.md R60, 30_encoding.md R90). -/
abbrev Word := BitVec 32

/-- A frame byte; bit 7 is the first received (20_memory.md R73, R74). -/
abbrev Byte := BitVec 8

/-- The width of the CRC register, of the syndrome and of a stored power sample (00_scope.md R9, 10_state.md R28). -/
abbrev Bits24 := BitVec 24

/-- An index of the register bus: 0 to 31 (20_memory.md R60). -/
abbrev WordIndex := BitVec 5

end Sys2Proof
end

