-- ==== Sys2Proof/Syntax.lean ====
section
/-! DEFINITION. The commands (30_encoding.md R91, R93), the register names (20_memory.md R65), the events the host
can bring about, and the lines of the assembler (30_encoding.md R97, R98). -/

namespace Sys2Proof

/-- The seven operand formats of 30_encoding.md R91. -/
inductive Format where
  | none | bit | byte | half | sample | index | range
deriving DecidableEq, Repr

/-- The widths in bits of a format's operand fields, in the assembler's operand order (30_encoding.md R91, R97). -/
def Format.widths : Format → List Nat
  | .none => []
  | .bit => [1]
  | .byte => [8]
  | .half => [16]
  | .sample => [12]
  | .index => [4]
  | .range => [4, 4]

/-- The rows of the opcode map, one name each (30_encoding.md R93). -/
inductive Mnemonic where
  | nop | errClear | softReset
  | crcInit | crcBit | crcByte | crcFinal
  | sample | eos | demodReset
  | sliceClear | slicePush | sliceTs16 | sliceCommit | slicePop | byteAt | extract
deriving DecidableEq, Repr

/-- A command with its operands. Every operand is an immediate field of the command word, of the field's width, so
that a term of this type is always well formed (30_encoding.md R91, R92; 10_state.md R20). -/
inductive Instr where
  | nop
  | errClear
  | softReset
  | crcInit
  | crcBit (b : BitVec 1)
  | crcByte (byte : Byte)
  | crcFinal
  | sample (raw : BitVec 12)
  | eos
  | demodReset
  | sliceClear
  | slicePush (byte : Byte)
  | sliceTs16 (imm16 : BitVec 16)
  | sliceCommit
  | slicePop
  | byteAt (idx : BitVec 4)
  | extract (lo hi : BitVec 4)
deriving DecidableEq, Repr

/-- The row of the opcode map a command belongs to. -/
def Instr.mnemonic : Instr → Mnemonic
  | .nop => .nop
  | .errClear => .errClear
  | .softReset => .softReset
  | .crcInit => .crcInit
  | .crcBit _ => .crcBit
  | .crcByte _ => .crcByte
  | .crcFinal => .crcFinal
  | .sample _ => .sample
  | .eos => .eos
  | .demodReset => .demodReset
  | .sliceClear => .sliceClear
  | .slicePush _ => .slicePush
  | .sliceTs16 _ => .sliceTs16
  | .sliceCommit => .sliceCommit
  | .slicePop => .slicePop
  | .byteAt _ => .byteAt
  | .extract _ _ => .extract

/-- The registers of the register map, in the order of their offsets (20_memory.md R65). -/
inductive Reg where
  | cmd | status | errCmd | crcReg | crcRes
  | sliceDf | sliceCa | sliceIcao | sliceTc | sliceMeHi | sliceMeLo | slicePi | sliceSyn | sliceTsHi | sliceTsLo
  | extHi | extLo | sbW0 | sbW1 | sbW2 | sbW3
  | samplesHi | samplesLo | demodPosHi | demodPosLo | framesEmitted | framesDropped | preMatches | params
deriving DecidableEq, Repr

/-- What the host can do to the block: the two accesses of the register bus (20_memory.md R61, R62) and power-on
reset (70_reset_and_hazards.md R310). -/
inductive HostEvent where
  | busWrite (widx : WordIndex) (v : Word)
  | busRead (widx : WordIndex)
  | powerOnReset
deriving DecidableEq, Repr

/-- One line of the assembler, its operands still numbers that may not fit their fields: a command or a register
read (30_encoding.md R97), or a pseudo-instruction (R98). Frame bytes are listed from byte 0 on. -/
inductive AsmLine where
  | command (m : Mnemonic) (ops : List Nat)
  | read (r : Reg)
  | loadFrame (h : List Nat)
  | setTs (t : Nat)
  | crcBytes (h : List Nat)
  | crcOf (h : List Nat)
  | recv
  | samples (v n : Nat)
deriving DecidableEq, Repr

end Sys2Proof
end

