-- ==== Sys2Proof/Decode.lean ====
section
/-! DEFINITION. The command encoding (30_encoding.md R90 to R96): the opcode map, the decoder, total on every 32-bit
word, and the encoder. -/

namespace Sys2Proof

/-- The rows of the opcode map in the order of 30_encoding.md R93. -/
def Mnemonic.all : List Mnemonic :=
  [.nop, .errClear, .softReset, .crcInit, .crcBit, .crcByte, .crcFinal, .sample, .eos, .demodReset,
   .sliceClear, .slicePush, .sliceTs16, .sliceCommit, .slicePop, .byteAt, .extract]

/-- The OPC column of 30_encoding.md R93. -/
def Mnemonic.opcode : Mnemonic → BitVec 8
  | .nop => 0x00
  | .errClear => 0x01
  | .softReset => 0x02
  | .crcInit => 0x10
  | .crcBit => 0x11
  | .crcByte => 0x12
  | .crcFinal => 0x13
  | .sample => 0x20
  | .eos => 0x21
  | .demodReset => 0x22
  | .sliceClear => 0x30
  | .slicePush => 0x31
  | .sliceTs16 => 0x32
  | .sliceCommit => 0x33
  | .slicePop => 0x34
  | .byteAt => 0x38
  | .extract => 0x39

/-- The match column of 30_encoding.md R93. -/
def Mnemonic.matchWord : Mnemonic → Word
  | .nop => 0x00000000
  | .errClear => 0x01000000
  | .softReset => 0x02000000
  | .crcInit => 0x10000000
  | .crcBit => 0x11000000
  | .crcByte => 0x12000000
  | .crcFinal => 0x13000000
  | .sample => 0x20000000
  | .eos => 0x21000000
  | .demodReset => 0x22000000
  | .sliceClear => 0x30000000
  | .slicePush => 0x31000000
  | .sliceTs16 => 0x32000000
  | .sliceCommit => 0x33000000
  | .slicePop => 0x34000000
  | .byteAt => 0x38000000
  | .extract => 0x39000000

/-- The mask column of 30_encoding.md R93: the opcode byte and every reserved bit. -/
def Mnemonic.mask : Mnemonic → Word
  | .nop => 0xFFFFFFFF
  | .errClear => 0xFFFFFFFF
  | .softReset => 0xFFFFFFFF
  | .crcInit => 0xFFFFFFFF
  | .crcBit => 0xFFFFFFFE
  | .crcByte => 0xFFFFFF00
  | .crcFinal => 0xFFFFFFFF
  | .sample => 0xFFFFF000
  | .eos => 0xFFFFFFFF
  | .demodReset => 0xFFFFFFFF
  | .sliceClear => 0xFFFFFFFF
  | .slicePush => 0xFFFFFF00
  | .sliceTs16 => 0xFFFF0000
  | .sliceCommit => 0xFFFFFFFF
  | .slicePop => 0xFFFFFFFF
  | .byteAt => 0xFFFFFFF0
  | .extract => 0xFFFFFF00

/-- "A word `w` selects row r exactly when `(w & r.mask) = r.match`" (30_encoding.md R93). -/
def Mnemonic.selects (m : Mnemonic) (w : Word) : Bool := w &&& m.mask == m.matchWord

/-- The row's command with its operand fields taken from the word (30_encoding.md R91): zero-extended, never
scaled or shifted (R92). -/
def Mnemonic.build (m : Mnemonic) (w : Word) : Instr :=
  match m with
  | .nop => .nop
  | .errClear => .errClear
  | .softReset => .softReset
  | .crcInit => .crcInit
  | .crcBit => .crcBit (w.extractLsb' 0 1)
  | .crcByte => .crcByte (w.extractLsb' 0 8)
  | .crcFinal => .crcFinal
  | .sample => .sample (w.extractLsb' 0 12)
  | .eos => .eos
  | .demodReset => .demodReset
  | .sliceClear => .sliceClear
  | .slicePush => .slicePush (w.extractLsb' 0 8)
  | .sliceTs16 => .sliceTs16 (w.extractLsb' 0 16)
  | .sliceCommit => .sliceCommit
  | .slicePop => .slicePop
  | .byteAt => .byteAt (w.extractLsb' 0 4)
  | .extract => .extract (w.extractLsb' 0 4) (w.extractLsb' 4 4)

/-- Why a word is no command: both raise `E_ILLEGAL` (30_encoding.md R96, 93_implementation_defined.md I9). -/
inductive IllegalWord where
  | reservedOpcode   -- an opcode value outside the map (R95)
  | reservedBitSet   -- a known opcode with a reserved bit set (R96)
deriving DecidableEq, Repr

/-- What the decoder makes of a word. -/
inductive Decoded where
  | command (i : Instr)
  | illegal (why : IllegalWord)
deriving DecidableEq, Repr

/-- Which reserved encoding a word is that selects no row. -/
def illegalReason (w : Word) : IllegalWord :=
  if Mnemonic.all.any (fun m => m.opcode == w.extractLsb' 24 8) then .reservedBitSet else .reservedOpcode

/-- The decoder: total, "every 32-bit word either selects exactly one command or raises `E_ILLEGAL`"
(30_encoding.md R96). -/
def decode (w : Word) : Decoded :=
  match Mnemonic.all.find? (fun m => m.selects w) with
  | some m => .command (m.build w)
  | none => .illegal (illegalReason w)

/-- Bits `w[23:0]` of a command's word: its operand fields, every other bit 0 (30_encoding.md R90, R91). -/
def Instr.operandBits : Instr → BitVec 24
  | .nop => 0
  | .errClear => 0
  | .softReset => 0
  | .crcInit => 0
  | .crcBit b => 0#23 ++ b
  | .crcByte byte => 0#16 ++ byte
  | .crcFinal => 0
  | .sample raw => 0#12 ++ raw
  | .eos => 0
  | .demodReset => 0
  | .sliceClear => 0
  | .slicePush byte => 0#16 ++ byte
  | .sliceTs16 imm16 => 0#8 ++ imm16
  | .sliceCommit => 0
  | .slicePop => 0
  | .byteAt idx => 0#20 ++ idx
  | .extract lo hi => 0#16 ++ hi ++ lo

/-- The command word of a command: the opcode in `w[31:24]` (30_encoding.md R90), the operand fields below it. -/
def encode (i : Instr) : Word := i.mnemonic.opcode ++ i.operandBits

/-- The command of an instruction word numbered as spec/opcode_table.json numbers it. Every command is one 32-bit
word (30_encoding.md R90). -/
def decodeTableWord (nbits w : Nat) : Option Instr :=
  if nbits ≤ 32 then
    match decode (BitVec.ofNat 32 (w % 2 ^ nbits)) with
    | .command i => some i
    | .illegal _ => none
  else none

end Sys2Proof
end

