-- ==== Sys2Proof/Config.lean ====
section
/-! DEFINITION. What is fixed when the block is built (00_scope.md R8) and what the spec leaves OPEN
(92_eei_decisions.md, "Open parameters"). -/

namespace Sys2Proof

/-- Where the preamble search resumes after a frame is emitted (00_scope.md R8, parameter `RESUME`). -/
inductive Resume where
  | skipFrame   -- 0: position k + W
  | oneSample   -- 1: position k + 1
deriving DecidableEq, Repr

/-- The build parameters of 00_scope.md R8. They are counts and ratios, never shifted or masked, so they are
numbers; which values are legal is `Params.legal` (WellFormed.lean). They stand in `State.params`, which no step
changes (log 4). -/
structure Params where
  /-- `P_PER_US`: power samples per microsecond. -/
  pPerUs    : Nat
  /-- `PRE_NUM`, the numerator of the preamble ratio. -/
  preNum    : Nat
  /-- `PRE_DEN`, its denominator. -/
  preDen    : Nat
  /-- `FIFO_DEPTH`, the capacity of the candidate-frame FIFO. -/
  fifoDepth : Nat
  /-- `RESUME`. -/
  resume    : Resume
deriving DecidableEq, Repr

/-- The reference configuration: the default column of 00_scope.md R8. -/
def Params.reference : Params :=
  { pPerUs := 10, preNum := 2, preDen := 1, fifoDepth := 2, resume := .skipFrame }

namespace Config

/-- `MSFE_BASE`: the system address of the register window. OPEN (20_memory.md R77), so it has no value here (log 9). -/
opaque msfeBase : Nat

/-- `SAMPLE_RATE_MIN`: the SAMPLE commands per microsecond a real implementation must sustain. OPEN
(70_reset_and_hazards.md R330), so it has no value here; no rule depends on it (log 9). -/
opaque sampleRateMin : Nat

/-- The system address of a register word: byte offset `4 * widx` in the window (20_memory.md R60, R77). -/
def registerAddress (widx : WordIndex) : Nat := msfeBase + 4 * widx.toNat

/-- What 92_eei_decisions.md D39 asks of an implementation that serves a live receiver: it accepts at least
2·`P_PER_US` input samples per microsecond. No rule and no step reads it. -/
def ServesLiveReceiver (p : Params) : Prop := 2 * p.pPerUs ≤ sampleRateMin

end Config

end Sys2Proof
end

