-- ==== Sys2Proof/Machine/State.lean ====
section
/-! DEFINITION. The state: the block's record of 10_state.md R22, the build parameters it was made with, and the
host's side of the bus. -/

namespace Sys2Proof.Machine

/-- A candidate frame of the FIFO: a timestamp and 14 bytes (10_state.md R31). -/
structure Candidate where
  ts : BitVec 64
  fb : Vector Byte 14
deriving DecidableEq, Repr

/-- The block state `st`, element by element (10_state.md R22). -/
structure Block where
  err     : Bool            -- R23
  errMore : Bool            -- R23
  errCode : BitVec 4        -- R23, 60_exceptions.md R280
  errCmd  : Word            -- R23
  crcR    : Bits24          -- R24
  crcRes  : Bits24          -- R25
  pendV   : Bool            -- R26
  pendS   : BitVec 12       -- R26, two's complement (00_scope.md R13)
  nIn     : BitVec 64       -- R27
  ph      : List Bits24     -- R28, oldest first
  kpos    : BitVec 64       -- R29
  ended   : Bool            -- R30
  fifo    : List Candidate  -- R31, head first
  ovf     : Bool            -- R32
  cntEmit : BitVec 32       -- R33
  cntDrop : BitVec 32       -- R33
  cntPre  : BitVec 32       -- R33
  sb      : Vector Byte 14  -- R34
  sbN     : Fin 15          -- R34
  sbTs    : BitVec 64       -- R35
  valid   : Bool            -- R36
  checked : Bool            -- R36
  syn     : Bits24          -- R36
  ext     : BitVec 56       -- R37
deriving DecidableEq, Repr

/-- The reset column of 10_state.md R22: every bit and counter 0, the sequences empty, the buffer zero
(70_reset_and_hazards.md R310). -/
def Block.reset : Block :=
  { err := false, errMore := false, errCode := 0, errCmd := 0
    crcR := 0, crcRes := 0
    pendV := false, pendS := 0, nIn := 0, ph := [], kpos := 0, ended := false
    fifo := [], ovf := false, cntEmit := 0, cntDrop := 0, cntPre := 0
    sb := Vector.replicate 14 0, sbN := 0, sbTs := 0
    valid := false, checked := false, syn := 0, ext := 0 }

/-- The machine: the block and its one host. -/
structure State where
  /-- The build parameters, constant during operation (00_scope.md R8). -/
  params  : Params
  /-- The number of bus masters of this launch (00_scope.md R7). -/
  masters : Nat
  /-- The block's state. -/
  blk     : Block
  /-- What the host has yet to do, oldest first: the command sequence is the machine's input (00_scope.md R6,
  10_state.md R40). -/
  pending : List HostEvent
  /-- The words the host's reads returned, oldest first: the model's own record (log 2). -/
  rdata   : List Word
deriving DecidableEq, Repr

/-- The machine right after reset: the block as 70_reset_and_hazards.md R310 says, the reference configuration, one
bus master, and a host that has done nothing. -/
def State.reset : State :=
  { params := Params.reference, masters := 1, blk := Block.reset, pending := [], rdata := [] }

/-- Why the machine stops. No command raises a fault: an error of the spec is recorded, in a next state. -/
inductive Fault where
  /-- Raised by `step` in a state whose `err_code` is one of the reserved codes 10 to 15: "a model that finds one in
  `err_code` is `stuck`, because no rule can produce it" (93_implementation_defined.md I11). Safe. -/
  | reservedErrorCode
deriving DecidableEq, Repr

/-- Why the model gives no meaning. -/
inductive Refusal where
  /-- Raised by an arm of `exec` whose command has no meaning yet; there is none. Safe. -/
  | notModelled (mnemonic : String)
  /-- Raised by `step` on a launch with more than one bus master: "a model refuses any launch with more than one
  host" (00_scope.md R7). Safe. -/
  | moreThanOneMaster
  /-- Raised by `step` on a launch whose build parameters are not legal values of 00_scope.md R8: no such block is
  built (log 5). Safe. -/
  | illegalParameters
deriving DecidableEq, Repr

end Sys2Proof.Machine
end

