-- ==== Sys2Proof/Machine/Flags.lean ====
section
/-! DEFINITION. The status flags (10_state.md R38): how each computation of them goes, and the STATUS word that shows
them (20_memory.md R66). -/

namespace Sys2Proof.Machine

/-- The error codes of 60_exceptions.md R280. -/
inductive ErrorCode where
  | illegal | full | len | tsNeg | index | range | span | empty | ended
deriving DecidableEq, Repr

/-- The recorded value of an error code (60_exceptions.md R280); 0 is `E_NONE`, 10 to 15 are reserved. -/
def ErrorCode.code : ErrorCode → BitVec 4
  | .illegal => 1
  | .full => 2
  | .len => 3
  | .tsNeg => 4
  | .index => 5
  | .range => 6
  | .span => 7
  | .empty => 8
  | .ended => 9

/-- A reserved error code, 10 to 15 (60_exceptions.md R280, 93_implementation_defined.md I11). -/
def reservedCode (c : BitVec 4) : Bool := decide (10 ≤ c.toNat)

/-- `raise Error(code) while executing word w`: the first error is recorded, a later one only sets `err_more`
(60_exceptions.md R282). -/
def Block.recordError (c : ErrorCode) (w : Word) (b : Block) : Block :=
  if b.err then { b with errMore := true }
  else { b with err := true, errCode := c.code, errCmd := w }

/-- What ERR_CLEAR clears: the error record and `ovf` (45_control.md R271, 60_exceptions.md R286). -/
def Block.clearErrors (b : Block) : Block :=
  { b with err := false, errMore := false, errCode := 0, errCmd := 0, ovf := false }

/-- `invalidate()`: the common effect of every command that changes the candidate (41_slice_buffer.md R125). -/
def Block.invalidate (b : Block) : Block := { b with valid := false, checked := false, syn := 0 }

/-- The flags after a check that gave this syndrome: `checked`, and `valid` exactly when it is zero
(44_rawframe.md R241). -/
def Block.recordSyndrome (syndrome : Bits24) (b : Block) : Block :=
  { b with syn := syndrome, checked := true, valid := syndrome == 0 }

/-- The STATUS word, from bit 31 down (20_memory.md R66): reserved, FIFO_COUNT, reserved, CHECKED, VALID, SB_N,
reserved, PEND, OVF, ENDED, ERR_CODE, reserved, ERR_MORE, ERR. -/
def Block.status (b : Block) : Word :=
  0#8 ++ BitVec.ofNat 4 b.fifo.length
    ++ 0#2 ++ BitVec.ofBool b.checked ++ BitVec.ofBool b.valid
    ++ BitVec.ofNat 4 b.sbN.val
    ++ 0#1 ++ BitVec.ofBool b.pendV ++ BitVec.ofBool b.ovf ++ BitVec.ofBool b.ended
    ++ b.errCode
    ++ 0#2 ++ BitVec.ofBool b.errMore ++ BitVec.ofBool b.err

end Sys2Proof.Machine
end

