-- ==== Sys2Proof/Machine/Constants.lean ====
section
/-! DEFINITION. The values the spec fixes (00_scope.md R9) and those derived from the build parameters (R8, 43_demod.md R181). -/

namespace Sys2Proof.Machine

/-- The generator constant, 24 bits (42_crc24.md R150). The spec takes it from general knowledge (log 6). -/
def generator : Bits24 := 0xFFF409

/-- `ES_DF`: the downlink formats of an extended squitter (00_scope.md R9, 43_demod.md R194). -/
def extendedSquitterFormats : List (BitVec 5) := [17, 18]

/-- The bytes of a frame (00_scope.md R9). -/
def frameLength : Nat := 14

/-- The recentring offset (00_scope.md R9, 43_demod.md R183). -/
def recentreOffset : Int := 2048

/-- `U`: power samples in half a microsecond (43_demod.md R181). -/
def halfUs (p : Params) : Nat := p.pPerUs / 2

/-- `W`: power samples in the 8 µs preamble and 112 µs of data (43_demod.md R181). -/
def window (p : Params) : Nat := 240 * halfUs p

end Sys2Proof.Machine
end

