-- ==== Sys2Proof/Machine/Operands.lean ====
section
/-! DEFINITION. Operand forms and the packing of bytes and bits: operand assembly (30_encoding.md R92), recentring
(43_demod.md R183), big-endian values (00_scope.md R11) and bit order within a byte (20_memory.md R73, R74). -/

namespace Sys2Proof.Machine

/-- An unsigned 4-bit index operand, 0 to 15 (30_encoding.md R92). -/
def indexOperand (idx : BitVec 4) : Nat := idx.toNat

/-- Recentring: `raw − 2048`, held as 12-bit two's complement (43_demod.md R183, 00_scope.md R13). -/
def recentre (raw : BitVec 12) : BitVec 12 := BitVec.ofInt 12 ((raw.toNat : Int) - recentreOffset)

/-- `be` of a byte sequence: the first byte is the most significant (00_scope.md R11). -/
def bigEndian (bytes : List Byte) : Nat := bytes.foldl (fun acc b => 256 * acc + b.toNat) 0

/-- Bytes `[lo, hi)` of the buffer, in order. -/
def byteRange (sb : Vector Byte 14) (lo hi : Nat) : List Byte := (sb.toList.drop lo).take (hi - lo)

/-- `be(sb[lo..hi))` in `n` bits (00_scope.md R11). -/
def bigEndianRange (n : Nat) (sb : Vector Byte 14) (lo hi : Nat) : BitVec n :=
  BitVec.ofNat n (bigEndian (byteRange sb lo hi))

/-- Byte `i` of the buffer. Every use has `i` below 14. -/
def bufferByte (sb : Vector Byte 14) (i : Nat) : Byte := sb.getD i 0

/-- The bits of a byte, "most significant bit first" (42_crc24.md R152). -/
def bitsOfByte (v : Byte) : List Bool :=
  [v.getLsbD 7, v.getLsbD 6, v.getLsbD 5, v.getLsbD 4, v.getLsbD 3, v.getLsbD 2, v.getLsbD 1, v.getLsbD 0]

/-- The bits of a byte sequence, byte 0 first (42_crc24.md R152). -/
def bitsOfBytes (bytes : List Byte) : List Bool := bytes.flatMap bitsOfByte

/-- The number whose binary digits, most significant first, are the bits given (43_demod.md R193). -/
def ofBits (bits : List Bool) : Nat := bits.foldl (fun acc b => 2 * acc + b.toNat) 0

/-- The high word of a 64-bit value (20_memory.md R71). -/
def highWord (v : BitVec 64) : Word := v.extractLsb' 32 32

/-- The low word of a 64-bit value (20_memory.md R71). -/
def lowWord (v : BitVec 64) : Word := v.extractLsb' 0 32

/-- The host's unpacking of sample i from its byte pair: `b[2i] + 256·b[2i+1]` (20_memory.md R64). It is done by the
host, outside the block; no step reads it. -/
def hostRawSample (first second : Byte) : Nat := first.toNat + 256 * second.toNat

end Sys2Proof.Machine
end

