-- ==== Sys2Proof/WellFormed.lean ====
section
/-! DEFINITION. The checks on what comes from outside the block: the build parameters (00_scope.md R8) and the
operands of an assembler line (30_encoding.md R97). A term of `Instr` needs none: its operands have the widths of
their fields, so every term has a command word. -/

namespace Sys2Proof

/-- The legal values of the build parameters (00_scope.md R8): `P_PER_US` even, 2 to 254; `PRE_NUM` and `PRE_DEN` 1
to 15; `FIFO_DEPTH` 1 to 15. `RESUME` has its two values by its type. -/
def Params.legal (p : Params) : Bool :=
  decide (p.pPerUs % 2 = 0) && decide (2 ≤ p.pPerUs) && decide (p.pPerUs ≤ 254)
    && decide (1 ≤ p.preNum) && decide (p.preNum ≤ 15)
    && decide (1 ≤ p.preDen) && decide (p.preDen ≤ 15)
    && decide (1 ≤ p.fifoDepth) && decide (p.fifoDepth ≤ 15)

/-- The format of each row of the opcode map (30_encoding.md R93). -/
def Mnemonic.format : Mnemonic → Format
  | .nop | .errClear | .softReset | .crcInit | .crcFinal | .eos | .demodReset
  | .sliceClear | .sliceCommit | .slicePop => .none
  | .crcBit => .bit
  | .crcByte | .slicePush => .byte
  | .sliceTs16 => .half
  | .sample => .sample
  | .byteAt => .index
  | .extract => .range

/-- One operand for each field, and each fits its field. -/
def operandsFit : List Nat → List Nat → Bool
  | [], [] => true
  | w :: ws, n :: ns => decide (n < 2 ^ w) && operandsFit ws ns
  | _, _ => false

/-- "An operand that does not fit its field is an assembly error, and no word is produced" (30_encoding.md R97). The
operands of the pseudo-instructions are bounded as R98 bounds them: `LOAD_FRAME` takes 14 bytes (28 hex digits),
`SET_TS` a number below 2^64, `SAMPLES` a 12-bit value and a count. -/
def AsmLine.wf : AsmLine → Bool
  | .command m ops => operandsFit m.format.widths ops
  | .read _ => true
  | .loadFrame h => decide (h.length = 14) && h.all (fun b => decide (b < 256))
  | .setTs t => decide (t < 2 ^ 64)
  | .crcBytes h => h.all (fun b => decide (b < 256))
  | .crcOf h => h.all (fun b => decide (b < 256))
  | .recv => true
  | .samples v _ => decide (v < 2 ^ 12)

end Sys2Proof
end

