-- ==== Sys2Proof/Machine/Ops.lean ====
section
/-! DEFINITION. The operations the meanings share: raising an error and returning from one, the CRC-24 functions, the
candidate FIFO, the slice buffer, and the check of a launch. -/

namespace Sys2Proof.Machine

/-- The machine with another block state. -/
def State.setBlk (b : Block) (s : State) : State := { s with blk := b }

/-- A command completes, leaving this block state: all its writes become visible together (00_scope.md R14). -/
def complete (b : Block) (s : State) : Host.Outcome State Fault Refusal := .next (s.setBlk b)

/-- `raise Error(code)` while executing word `w`: the error is recorded and the command ends with no other effect; the
block accepts the next command normally (60_exceptions.md R282, R284). This is the block's only form of taking an
exception: nothing else is saved, control goes nowhere and no mode changes. -/
def raiseError (c : ErrorCode) (w : Word) (s : State) : Host.Outcome State Fault Refusal :=
  complete (s.blk.recordError c w) s

/-- The return from an error: the acknowledgement, with nothing to restore (60_exceptions.md R286). -/
def returnFromError (s : State) : Host.Outcome State Fault Refusal := complete s.blk.clearErrors s

/-! ### The CRC-24 functions (42_crc24.md) -/

/-- `crcstep(r, b)`: shift left by one, inject the bit at position 0, and exclusive-or the generator when the bit
shifted out of position 23 was 1 (42_crc24.md R151). -/
def crcStep (r : Bits24) (b : Bool) : Bits24 :=
  let t : Bits24 := (r.setWidth 23).concat b
  if r.getLsbD 23 then t ^^^ generator else t

/-- `feed(r, s)`: the bits of `s` in order (42_crc24.md R152). -/
def feed (r : Bits24) (bits : List Bool) : Bits24 := bits.foldl crcStep r

/-- `feedbyte(r, v)`: bit 7 first (42_crc24.md R152). -/
def feedByte (r : Bits24) (v : Byte) : Bits24 := feed r (bitsOfByte v)

/-- `aug(r)`: 24 zero bits appended (42_crc24.md R153). -/
def augment (r : Bits24) : Bits24 := feed r (List.replicate 24 false)

/-- `crc24(s)`, from a register of 0 (42_crc24.md R153). -/
def crc24 (bits : List Bool) : Bits24 := augment (feed 0 bits)

/-- `crc24` of a byte sequence, byte 0 first, most significant bit first (42_crc24.md R152, R153). -/
def crc24Bytes (bytes : List Byte) : Bits24 := crc24 (bitsOfBytes bytes)

/-! ### The candidate FIFO (10_state.md R31) -/

/-- `enqueue(q, e)`: the head is the oldest entry (00_scope.md R14). -/
def enqueue (q : List Candidate) (e : Candidate) : List Candidate := q ++ [e]

/-- `dequeue(q)`: the oldest entry and what is left, or nothing when the queue is empty (00_scope.md R14). -/
def dequeue : List Candidate → Option (Candidate × List Candidate)
  | [] => none
  | e :: q => some (e, q)

/-! ### The slice buffer (41_slice_buffer.md) -/

/-- The buffer emptied and its timestamp cleared (41_slice_buffer.md R120). -/
def Block.clearBuffer (b : Block) : Block :=
  Block.invalidate { b with sb := Vector.replicate 14 0, sbN := 0, sbTs := 0 }

/-- One byte appended to a buffer that is not full (41_slice_buffer.md R121). -/
def Block.pushByte (byte : Byte) (b : Block) : Block :=
  Block.invalidate { b with sb := b.sb.setIfInBounds b.sbN.val byte, sbN := Fin.ofNat 15 (b.sbN.val + 1) }

/-- 16 bits shifted into the low end of the timestamp, modulo 2^64 (41_slice_buffer.md R122). -/
def Block.shiftTimestamp (imm16 : BitVec 16) (b : Block) : Block :=
  Block.invalidate { b with sbTs := (b.sbTs <<< 16) + imm16.setWidth 64 }

/-- A candidate frame put into the buffer in place of what it held (44_rawframe.md R251). -/
def Block.loadCandidate (c : Candidate) (b : Block) : Block :=
  Block.invalidate { b with sb := c.fb, sbN := 14, sbTs := c.ts }

/-! ### Launch (00_scope.md R7, R8) -/

/-- What a model refuses before anything runs: more than one bus master (00_scope.md R7), and build parameters that
are not legal values (R8, log 5). -/
def launchRefusal (s : State) : Option Refusal :=
  if 1 < s.masters then some .moreThanOneMaster
  else if s.params.legal then none
  else some .illegalParameters

end Sys2Proof.Machine
end

