-- ==== Sys2Proof/Machine/RawFrame.lean ====
section
/-! DEFINITION. The RawFrame gate and the bitfield slicer (44_rawframe.md). -/

namespace Sys2Proof.Machine

/-! ### The fields of the frame in the buffer, "derived, not stored" (20_memory.md R69) -/

/-- Downlink format: `sb[0][7:3]` (44_rawframe.md R243). -/
def downlinkFormat (sb : Vector Byte 14) : BitVec 5 := (bufferByte sb 0).extractLsb' 3 5

/-- Capability: `sb[0][2:0]` (44_rawframe.md R244). -/
def capability (sb : Vector Byte 14) : BitVec 3 := (bufferByte sb 0).extractLsb' 0 3

/-- ICAO address: bytes 1 to 3 (44_rawframe.md R245). -/
def icaoAddress (sb : Vector Byte 14) : Bits24 := bigEndianRange 24 sb 1 4

/-- Type code: `sb[4][7:3]` (44_rawframe.md R247). -/
def typeCode (sb : Vector Byte 14) : BitVec 5 := (bufferByte sb 4).extractLsb' 3 5

/-- ME payload: bytes 4 to 10 (44_rawframe.md R248). -/
def mePayload (sb : Vector Byte 14) : BitVec 56 := bigEndianRange 56 sb 4 11

/-- Parity field: bytes 11 to 13 (44_rawframe.md R249). -/
def parityField (sb : Vector Byte 14) : Bits24 := bigEndianRange 24 sb 11 14

/-- The slicer's syndrome: `crc24` over all 14 bytes, by its own evaluator (44_rawframe.md R242). -/
def syndrome (sb : Vector Byte 14) : Bits24 := crc24Bytes sb.toList

/-! ### Commands -/

/-- SLICE_COMMIT: the validating factory. A negative timestamp is reported before a wrong length; a nonzero syndrome
is "none", not an error (44_rawframe.md R241). -/
def execSliceCommit (s : State) : Host.Outcome State Fault Refusal :=
  if s.blk.sbTs.getLsbD 63 then raiseError .tsNeg (encode .sliceCommit) s
  else if s.blk.sbN ≠ 14 then raiseError .len (encode .sliceCommit) s
  else complete (s.blk.recordSyndrome (syndrome s.blk.sb)) s

/-- SLICE_POP: moves the oldest candidate of the FIFO into the slice buffer, without committing it; `E_EMPTY` when
there is none (44_rawframe.md R251). -/
def execSlicePop (s : State) : Host.Outcome State Fault Refusal :=
  match dequeue s.blk.fifo with
  | none => raiseError .empty (encode .slicePop) s
  | some (c, rest) => complete (Block.loadCandidate c { s.blk with fifo := rest }) s

end Sys2Proof.Machine
end

