-- ==== Sys2Proof/Machine/Bus.lean ====
section
/-! DEFINITION. The register bus (20_memory.md): the register map and what a read returns. -/

namespace Sys2Proof.Machine

/-- The registers in the order of their word indexes, from 0 (20_memory.md R65). -/
def registers : List Reg :=
  [.cmd, .status, .errCmd, .crcReg, .crcRes,
   .sliceDf, .sliceCa, .sliceIcao, .sliceTc, .sliceMeHi, .sliceMeLo, .slicePi, .sliceSyn, .sliceTsHi, .sliceTsLo,
   .extHi, .extLo, .sbW0, .sbW1, .sbW2, .sbW3,
   .samplesHi, .samplesLo, .demodPosHi, .demodPosLo, .framesEmitted, .framesDropped, .preMatches, .params]

/-- The register at a word index; none at 0x74, 0x78 and 0x7C (20_memory.md R63, R65). -/
def registerAt (widx : WordIndex) : Option Reg := registers[widx.toNat]?

/-- The word index of a register: its offset divided by 4 (20_memory.md R60, R65). -/
def registerIndex (r : Reg) : WordIndex := BitVec.ofNat 5 (registers.idxOf r)

/-- A field register: its field, zero-extended, when a RawFrame exists, else 0 (44_rawframe.md R246). -/
def gated {n : Nat} (b : Block) (field : BitVec n) : Word := if b.valid then field.setWidth 32 else 0

/-- The PARAMS word, from bit 31 down: REV, PRE_DEN, PRE_NUM, reserved, RESUME, FIFO_DEPTH, P_PER_US
(20_memory.md R72). REV is 0x00 for revision 1. -/
def paramsWord (p : Params) : Word :=
  0x00#8 ++ BitVec.ofNat 4 p.preDen ++ BitVec.ofNat 4 p.preNum
    ++ 0#3 ++ BitVec.ofBool (p.resume == .oneSample)
    ++ BitVec.ofNat 4 p.fifoDepth ++ BitVec.ofNat 8 p.pPerUs

/-- What each register reads as (20_memory.md R63 to R72). -/
def registerValue (r : Reg) (p : Params) (b : Block) : Word :=
  match r with
  | .cmd => 0
  | .status => b.status
  | .errCmd => b.errCmd
  | .crcReg => b.crcR.setWidth 32
  | .crcRes => b.crcRes.setWidth 32
  | .sliceDf => gated b (downlinkFormat b.sb)
  | .sliceCa => gated b (capability b.sb)
  | .sliceIcao => gated b (icaoAddress b.sb)
  | .sliceTc => gated b (typeCode b.sb)
  | .sliceMeHi => gated b ((mePayload b.sb).extractLsb' 32 24)
  | .sliceMeLo => gated b ((mePayload b.sb).extractLsb' 0 32)
  | .slicePi => gated b (parityField b.sb)
  | .sliceSyn => b.syn.setWidth 32
  | .sliceTsHi => highWord b.sbTs
  | .sliceTsLo => lowWord b.sbTs
  | .extHi => (b.ext.extractLsb' 32 24).setWidth 32
  | .extLo => b.ext.extractLsb' 0 32
  | .sbW0 => bigEndianRange 32 b.sb 0 4
  | .sbW1 => bigEndianRange 32 b.sb 4 8
  | .sbW2 => bigEndianRange 32 b.sb 8 12
  | .sbW3 => bigEndianRange 16 b.sb 12 14 ++ 0#16
  | .samplesHi => highWord b.nIn
  | .samplesLo => lowWord b.nIn
  | .demodPosHi => highWord b.kpos
  | .demodPosLo => lowWord b.kpos
  | .framesEmitted => b.cntEmit
  | .framesDropped => b.cntDrop
  | .preMatches => b.cntPre
  | .params => paramsWord p

/-- `BusRead(widx)`: the word the register map gives for the current state, 0 where it is unmapped
(20_memory.md R62, R63). -/
def busRead (widx : WordIndex) (s : State) : Word :=
  match registerAt widx with
  | some r => registerValue r s.params s.blk
  | none => 0

end Sys2Proof.Machine
end

