-- ==== Sys2Proof/Machine/Control.lean ====
section
/-! DEFINITION. The control commands (45_control.md). -/

namespace Sys2Proof.Machine

/-- NOP: no state changes (45_control.md R270). -/
def execNop (s : State) : Host.Outcome State Fault Refusal := .next s

/-- ERR_CLEAR: acknowledges a recorded error and clears the overflow flag (45_control.md R271). -/
def execErrClear (s : State) : Host.Outcome State Fault Refusal := returnFromError s

/-- SOFT_RESET: `st <- reset_state`; the parameters are not changed (45_control.md R272). -/
def execSoftReset (s : State) : Host.Outcome State Fault Refusal := complete Block.reset s

end Sys2Proof.Machine
end

