-- ==== Sys2Proof/Machine/Crc.lean ====
section
/-! DEFINITION. The commands of the CRC unit (42_crc24.md). -/

namespace Sys2Proof.Machine

/-- CRC_INIT: clears the CRC unit (42_crc24.md R154). -/
def execCrcInit (s : State) : Host.Outcome State Fault Refusal :=
  complete { s.blk with crcR := 0, crcRes := 0 } s

/-- CRC_BIT b: feeds one bit (42_crc24.md R155). -/
def execCrcBit (b : BitVec 1) (s : State) : Host.Outcome State Fault Refusal :=
  complete { s.blk with crcR := crcStep s.blk.crcR (b.getLsbD 0) } s

/-- CRC_BYTE byte: feeds eight bits, most significant first (42_crc24.md R156). -/
def execCrcByte (byte : Byte) (s : State) : Host.Outcome State Fault Refusal :=
  complete { s.blk with crcR := feedByte s.blk.crcR byte } s

/-- CRC_FINAL: the augmented result, without disturbing the register (42_crc24.md R157). -/
def execCrcFinal (s : State) : Host.Outcome State Fault Refusal :=
  complete { s.blk with crcRes := augment s.blk.crcR } s

end Sys2Proof.Machine
end

