-- ==== Sys2Proof/Machine/Demod.lean ====
section
/-! DEFINITION. The Manchester demodulator, the preamble detector and the frame-length state machine (43_demod.md).
The functions take the build parameters as an argument (00_scope.md R8). -/

namespace Sys2Proof.Machine

/-! ### Samples and power -/

/-- The power of a pair of recentred samples: the sum of their squares, at most 2^23 (43_demod.md R182). -/
def power (first second : BitVec 12) : Bits24 :=
  BitVec.ofInt 24 (first.toInt * first.toInt + second.toInt * second.toInt)

/-- `p[j]` as a number (43_demod.md R181). A position is tried only when every index read lies in the history
(43_demod.md R190); outside it this answers 0 (log 8). -/
def powerAt (ph : List Bits24) (j : Nat) : Nat := (ph.getD j 0).toNat

/-! ### Preamble detector -/

/-- `PS(k)`: the power at the four pulse starts, 0, 1, 3.5 and 4.5 µs (43_demod.md R188). -/
def peakSum (p : Params) (ph : List Bits24) (k : Nat) : Nat :=
  powerAt ph k + powerAt ph (k + 2 * halfUs p) + powerAt ph (k + 7 * halfUs p) + powerAt ph (k + 9 * halfUs p)

/-- `PS(k - 1)`, with `PS(-1) = 0` (43_demod.md R188). -/
def peakSumBefore (p : Params) (ph : List Bits24) : Nat → Nat
  | 0 => 0
  | k + 1 => peakSum p ph k

/-- `VS(k)`: the power in the six half-microsecond slots that start no pulse (43_demod.md R189). -/
def valleySum (p : Params) (ph : List Bits24) (k : Nat) : Nat :=
  powerAt ph (k + halfUs p) + powerAt ph (k + 3 * halfUs p) + powerAt ph (k + 4 * halfUs p)
    + powerAt ph (k + 5 * halfUs p) + powerAt ph (k + 6 * halfUs p) + powerAt ph (k + 8 * halfUs p)

/-- `match(k)`: the rising edge of a local maximum of the peak sum, and the ratio test (43_demod.md R191). -/
def preambleMatch (p : Params) (ph : List Bits24) (k : Nat) : Bool :=
  decide (peakSumBefore p ph k < peakSum p ph k)
    && decide (peakSum p ph (k + 1) ≤ peakSum p ph k)
    && decide (p.preNum * valleySum p ph k ≤ p.preDen * peakSum p ph k)

/-! ### Manchester decoder -/

/-- The power of a half-bit period: the sum of the `n` power samples from `a` on (43_demod.md R192). -/
def halfPower (ph : List Bits24) (n a : Nat) : Nat := (((ph.drop a).take n).map BitVec.toNat).sum

/-- Where the data of a frame at position `k` starts: 8 µs after the preamble start (43_demod.md R192). -/
def dataStart (p : Params) (k : Nat) : Nat := k + 16 * halfUs p

/-- `bit(k, i)`: 1 when the first half-bit period has more power than the second; a tie gives 0 (43_demod.md R192). -/
def dataBit (p : Params) (ph : List Bits24) (k i : Nat) : Bool :=
  let a := dataStart p k + 2 * halfUs p * i
  decide (halfPower ph (halfUs p) (a + halfUs p) < halfPower ph (halfUs p) a)

/-- `byte(k, j)`: eight bits, the first received the most significant (43_demod.md R193). -/
def frameByte (p : Params) (ph : List Bits24) (k j : Nat) : Byte :=
  BitVec.ofNat 8 (ofBits
    [dataBit p ph k (8 * j), dataBit p ph k (8 * j + 1), dataBit p ph k (8 * j + 2), dataBit p ph k (8 * j + 3),
     dataBit p ph k (8 * j + 4), dataBit p ph k (8 * j + 5), dataBit p ph k (8 * j + 6), dataBit p ph k (8 * j + 7)])

/-- The 14 bytes of the frame at position `k` (43_demod.md R196). -/
def frameAt (p : Params) (ph : List Bits24) (k : Nat) : Vector Byte 14 :=
  #v[frameByte p ph k 0, frameByte p ph k 1, frameByte p ph k 2, frameByte p ph k 3, frameByte p ph k 4,
     frameByte p ph k 5, frameByte p ph k 6, frameByte p ph k 7, frameByte p ph k 8, frameByte p ph k 9,
     frameByte p ph k 10, frameByte p ph k 11, frameByte p ph k 12, frameByte p ph k 13]

/-! ### Frame-length state machine -/

/-- The downlink format of a byte 0: its bits 7 to 3 (43_demod.md R194, 44_rawframe.md R243). -/
def formatBits (byte0 : Byte) : BitVec 5 := byte0.extractLsb' 3 5

/-- `size(byte0)`: 14 for an extended squitter, else 0 (43_demod.md R194). -/
def frameSize (byte0 : Byte) : Nat :=
  if extendedSquitterFormats.contains (formatBits byte0) then frameLength else 0

/-- The timestamp of a frame at position `k`: the input-sample index of the first half of data bit 0, modulo 2^64
(43_demod.md R196, R199). -/
def timestamp (p : Params) (k : Nat) : BitVec 64 := BitVec.ofNat 64 (2 * dataStart p k)

/-- `fifo_put`: the frame is queued and counted, or dropped, counted and flagged when the queue is full
(43_demod.md R197). -/
def fifoPut (p : Params) (e : Candidate) (b : Block) : Block :=
  if b.fifo.length < p.fifoDepth then { b with fifo := enqueue b.fifo e, cntEmit := b.cntEmit + 1 }
  else { b with cntDrop := b.cntDrop + 1, ovf := true }

/-- Where the search goes on after a frame at `k` (43_demod.md R196, parameter `RESUME`). -/
def resumePosition (p : Params) (k : Nat) : Nat :=
  match p.resume with
  | .skipFrame => k + window p
  | .oneSample => k + 1

/-- `st.kpos <- k`, in 64 bits (10_state.md R29, 70_reset_and_hazards.md R331). -/
def Block.setPosition (k : Nat) (b : Block) : Block := { b with kpos := BitVec.ofNat 64 k }

/-- `emit(k)`: the full frame goes to the FIFO with its timestamp, and the search moves on; no CRC is computed
(43_demod.md R196). -/
def emit (p : Params) (k : Nat) (b : Block) : Block :=
  (fifoPut p { ts := timestamp p k, fb := frameAt p b.ph k } b).setPosition (resumePosition p k)

/-- `try(k)` (43_demod.md R195). -/
def tryPosition (p : Params) (k : Nat) (b : Block) : Block :=
  if preambleMatch p b.ph k then
    let counted := { b with cntPre := b.cntPre + 1 }
    if frameSize (frameByte p b.ph k 0) = 0 then counted.setPosition (k + 1) else emit p k counted
  else b.setPosition (k + 1)

/-- Whether the window of the next position is complete: `n_p >= kpos + W` (43_demod.md R190). -/
def windowComplete (p : Params) (b : Block) : Bool := decide (b.kpos.toNat + window p ≤ b.ph.length)

/-- The loop of `try_positions`, at most `n` rounds of it. -/
def tryLoop (p : Params) : Nat → Block → Block
  | 0, b => b
  | n + 1, b => if windowComplete p b then tryLoop p n (tryPosition p b.kpos.toNat b) else b

/-- `try_positions()`: every position whose window is complete is tried, in increasing order (43_demod.md R190).
Every round raises `kpos` by at least 1, so the loop ends within `n_p + 1 - (kpos + W)` rounds while `kpos` does not
wrap; the bound is that number (log 7). -/
def tryPositions (p : Params) (b : Block) : Block :=
  tryLoop p (b.ph.length + 1 - (b.kpos.toNat + window p)) b

/-- One accepted input sample: counted, recentred, and held or paired (43_demod.md R184, R186, R187). -/
def acceptSample (p : Params) (raw : BitVec 12) (b : Block) : Block :=
  let counted := { b with nIn := b.nIn + 1 }
  if b.pendV then
    tryPositions p { counted with ph := b.ph ++ [power b.pendS (recentre raw)], pendV := false }
  else { counted with pendS := recentre raw, pendV := true }

/-- The demodulator's state as a new stream finds it (43_demod.md R200). -/
def Block.newStream (b : Block) : Block :=
  { b with
    pendV := false, pendS := 0, nIn := 0, ph := [], kpos := 0, ended := false
    fifo := [], ovf := false, cntPre := 0, cntEmit := 0, cntDrop := 0 }

/-! ### Commands -/

/-- SAMPLE raw: delivers one input sample; `E_ENDED` after the end of the stream (43_demod.md R184, R185). -/
def execSample (raw : BitVec 12) (s : State) : Host.Outcome State Fault Refusal :=
  if s.blk.ended then raiseError .ended (encode (.sample raw)) s
  else complete (acceptSample s.params raw s.blk) s

/-- EOS: marks the end of the stream and discards an unpaired sample; repeated, it has no effect (43_demod.md R201). -/
def execEos (s : State) : Host.Outcome State Fault Refusal :=
  if s.blk.ended then complete s.blk s
  else complete { s.blk with ended := true, pendV := false } s

/-- DEMOD_RESET: starts a new stream (43_demod.md R200). -/
def execDemodReset (s : State) : Host.Outcome State Fault Refusal := complete s.blk.newStream s

end Sys2Proof.Machine
end

