-- ==== Sys2Proof/Machine/SliceBuffer.lean ====
section
/-! DEFINITION. The slice buffer and the BitString primitives (41_slice_buffer.md). -/

namespace Sys2Proof.Machine

/-- SLICE_CLEAR: empties the slice buffer and clears its timestamp (41_slice_buffer.md R120). -/
def execSliceClear (s : State) : Host.Outcome State Fault Refusal := complete s.blk.clearBuffer s

/-- SLICE_PUSH byte: appends one byte, or raises `E_FULL` when the buffer holds 14 (41_slice_buffer.md R121). -/
def execSlicePush (byte : Byte) (s : State) : Host.Outcome State Fault Refusal :=
  if s.blk.sbN = 14 then raiseError .full (encode (.slicePush byte)) s
  else complete (s.blk.pushByte byte) s

/-- SLICE_TS16 imm16: shifts 16 bits into the low end of the candidate timestamp (41_slice_buffer.md R122). -/
def execSliceTs16 (imm16 : BitVec 16) (s : State) : Host.Outcome State Fault Refusal :=
  complete (s.blk.shiftTimestamp imm16) s

/-- BYTE_AT idx: one byte of the buffer, unsigned, into `ext`; `E_INDEX` outside `[0, sb_n)`
(41_slice_buffer.md R123). -/
def execByteAt (idx : BitVec 4) (s : State) : Host.Outcome State Fault Refusal :=
  if s.blk.sbN.val ≤ indexOperand idx then raiseError .index (encode (.byteAt idx)) s
  else complete { s.blk with ext := (bufferByte s.blk.sb (indexOperand idx)).setWidth 56 } s

/-- EXTRACT from, to: the big-endian value of bytes `[from, to)` into `ext`; the bounds are checked before the span
(41_slice_buffer.md R124). -/
def execExtract (lo hi : BitVec 4) (s : State) : Host.Outcome State Fault Refusal :=
  if indexOperand hi < indexOperand lo ∨ s.blk.sbN.val < indexOperand hi then
    raiseError .range (encode (.extract lo hi)) s
  else if 8 ≤ indexOperand hi - indexOperand lo then raiseError .span (encode (.extract lo hi)) s
  else complete { s.blk with ext := bigEndianRange 56 s.blk.sb (indexOperand lo) (indexOperand hi) } s

end Sys2Proof.Machine
end

