-- ==== Sys2Proof/Machine/Dispatch.lean ====
section
/-! DEFINITION. The meaning of each command, one arm per row of the opcode map (30_encoding.md R93). -/

namespace Sys2Proof.Machine

def exec (i : Instr) (s : State) : Host.Outcome State Fault Refusal :=
  match i with
  | .nop => Sys2Proof.Machine.execNop s
  | .errClear => Sys2Proof.Machine.execErrClear s
  | .softReset => Sys2Proof.Machine.execSoftReset s
  | .crcInit => Sys2Proof.Machine.execCrcInit s
  | .crcBit b => Sys2Proof.Machine.execCrcBit b s
  | .crcByte byte => Sys2Proof.Machine.execCrcByte byte s
  | .crcFinal => Sys2Proof.Machine.execCrcFinal s
  | .sample raw => Sys2Proof.Machine.execSample raw s
  | .eos => Sys2Proof.Machine.execEos s
  | .demodReset => Sys2Proof.Machine.execDemodReset s
  | .sliceClear => Sys2Proof.Machine.execSliceClear s
  | .slicePush byte => Sys2Proof.Machine.execSlicePush byte s
  | .sliceTs16 imm16 => Sys2Proof.Machine.execSliceTs16 imm16 s
  | .sliceCommit => Sys2Proof.Machine.execSliceCommit s
  | .slicePop => Sys2Proof.Machine.execSlicePop s
  | .byteAt idx => Sys2Proof.Machine.execByteAt idx s
  | .extract lo hi => Sys2Proof.Machine.execExtract lo hi s

end Sys2Proof.Machine
end

