-- ==== Sys2Proof/Machine/Port.lean ====
section
/-! DEFINITION. The two agents at the bus (00_scope.md R6): the host, which presents its events one at a time, and
the block, which performs each one. -/

namespace Sys2Proof.Machine

/-- `execute_command(w)`: a word that is no command raises `E_ILLEGAL` and records itself (30_encoding.md R96). -/
def executeCommand (w : Word) (s : State) : Host.Outcome State Fault Refusal :=
  match decode w with
  | .command i => exec i s
  | .illegal _ => raiseError .illegal w s

/-- `BusWrite(widx, v)`: a write to CMD executes a command; any other write is ignored (20_memory.md R61). -/
def busWrite (widx : WordIndex) (v : Word) (s : State) : Host.Outcome State Fault Refusal :=
  if widx = 0 then executeCommand v s else .next s

/-- The host's step: it puts its oldest event on the bus. With none left, nothing happens (log 1). -/
def present (s : State) : Option (HostEvent × State) :=
  match s.pending with
  | [] => none
  | e :: rest => some (e, { s with pending := rest })

/-- The block's step: it performs one event to its end (20_memory.md R79). A read returns its word to the host, with no
effect on the block (R62); power-on reset gives the reset state (70_reset_and_hazards.md R310). -/
def perform (e : HostEvent) (s : State) : Host.Outcome State Fault Refusal :=
  match e with
  | .busWrite widx v => busWrite widx v s
  | .busRead widx => .next { s with rdata := s.rdata ++ [busRead widx s] }
  | .powerOnReset => complete Block.reset s

/-- What one step of the machine does once its launch is accepted: the host presents, the block performs; with nothing
presented the block does nothing (00_scope.md R6, 60_exceptions.md R294). -/
def turn (s : State) : Host.Outcome State Fault Refusal :=
  match present s with
  | none => .next s
  | some (e, s') => perform e s'

/-- The host's next event is the write of this word to CMD, and the launch is one the model accepts. -/
def State.placeCommand (w : Word) (s : State) : State :=
  { s with masters := 1, pending := .busWrite 0 w :: s.pending }

/-- A launch: a block built with these parameters, just reset, and one host about to do these things, in order
(00_scope.md R8, 10_state.md R40). -/
def launch (p : Params) (events : List HostEvent) : State :=
  { State.reset with params := p, pending := events }

end Sys2Proof.Machine
end

