-- ==== Sys2Proof/Machine/Step.lean ====
section
/-! DEFINITION. One step of the machine. -/

namespace Sys2Proof.Machine

/-- One step: a launch the spec has the model refuse is refused (`launchRefusal`); a state with a reserved error code is
stuck (93_implementation_defined.md I11); otherwise the host's next event is performed. -/
def step (s : State) : Host.Outcome State Fault Refusal :=
  match launchRefusal s with
  | some r => .refused r
  | none => if reservedCode s.blk.errCode then .fault .reservedErrorCode else turn s

/-- The state in which the next step runs this instruction word: the block fetches nothing (10_state.md R21), so the
word is put where the machine takes its next command from, at the head of the host's pending events, as a write to
CMD (log 1). -/
def State.withFetchWord (s : State) (nbits w : Nat) : State :=
  s.placeCommand (BitVec.ofNat 32 (w % 2 ^ nbits))

end Sys2Proof.Machine
end

