-- ==== Sys2Proof/Machine/Assembler.lean ====
section
/-! DEFINITION. The assembler of the command set: what each line stands for (30_encoding.md R97, R98), and the reading
of a line's text. It is on the host's side: it makes the events a launch is given. -/

namespace Sys2Proof.Machine

/-! ### Lines -/

/-- The command of a row with these operands, in the assembler's operand order (30_encoding.md R97). The operands are
known to fit (`operandsFit`). -/
def instrOf (m : Mnemonic) (ops : List Nat) : Instr :=
  match m with
  | .nop => .nop
  | .errClear => .errClear
  | .softReset => .softReset
  | .crcInit => .crcInit
  | .crcBit => .crcBit (BitVec.ofNat 1 (ops.getD 0 0))
  | .crcByte => .crcByte (BitVec.ofNat 8 (ops.getD 0 0))
  | .crcFinal => .crcFinal
  | .sample => .sample (BitVec.ofNat 12 (ops.getD 0 0))
  | .eos => .eos
  | .demodReset => .demodReset
  | .sliceClear => .sliceClear
  | .slicePush => .slicePush (BitVec.ofNat 8 (ops.getD 0 0))
  | .sliceTs16 => .sliceTs16 (BitVec.ofNat 16 (ops.getD 0 0))
  | .sliceCommit => .sliceCommit
  | .slicePop => .slicePop
  | .byteAt => .byteAt (BitVec.ofNat 4 (ops.getD 0 0))
  | .extract => .extract (BitVec.ofNat 4 (ops.getD 0 0)) (BitVec.ofNat 4 (ops.getD 1 0))

/-- A command as the host writes it: its word, to CMD (20_memory.md R61). -/
def writeCommand (i : Instr) : HostEvent := .busWrite 0 (encode i)

/-- `CRC_BYTES h` (30_encoding.md R98). -/
def crcBytesOf (h : List Nat) : List Instr := h.map fun b => .crcByte (BitVec.ofNat 8 b)

/-- 16 bits of a timestamp, from bit `lsb` up. -/
def timestampPart (t lsb : Nat) : Instr := .sliceTs16 (BitVec.ofNat 16 (t / 2 ^ lsb))

/-- What a line stands for: a command is itself, a pseudo-instruction expands as 30_encoding.md R98 shows, and a read
is a bus read, "not a command" (R97). -/
def expansion : AsmLine → List HostEvent
  | .command m ops => [writeCommand (instrOf m ops)]
  | .read r => [.busRead (registerIndex r)]
  | .loadFrame h => (.sliceClear :: h.map fun b => .slicePush (BitVec.ofNat 8 b)).map writeCommand
  | .setTs t => [timestampPart t 48, timestampPart t 32, timestampPart t 16, timestampPart t 0].map writeCommand
  | .crcBytes h => (crcBytesOf h).map writeCommand
  | .crcOf h => ([Instr.crcInit] ++ crcBytesOf h ++ [Instr.crcFinal]).map writeCommand
  | .recv => [.slicePop, .sliceCommit].map writeCommand
  | .samples v n => (List.replicate n (.sample (BitVec.ofNat 12 v))).map writeCommand

/-- A line assembled: nothing when an operand does not fit its field (30_encoding.md R97). -/
def assemble (l : AsmLine) : Option (List HostEvent) := if l.wf then some (expansion l) else none

/-- A program assembled, line after line. -/
def assembleLines : List AsmLine → Option (List HostEvent)
  | [] => some []
  | l :: ls => do
    let a ← assemble l
    let as ← assembleLines ls
    return a ++ as

/-! ### The text of a line (30_encoding.md R97; lexical details: log 10) -/

/-- The mnemonics as they are written (30_encoding.md R93). -/
def mnemonicText : Mnemonic → String
  | .nop => "NOP"
  | .errClear => "ERR_CLEAR"
  | .softReset => "SOFT_RESET"
  | .crcInit => "CRC_INIT"
  | .crcBit => "CRC_BIT"
  | .crcByte => "CRC_BYTE"
  | .crcFinal => "CRC_FINAL"
  | .sample => "SAMPLE"
  | .eos => "EOS"
  | .demodReset => "DEMOD_RESET"
  | .sliceClear => "SLICE_CLEAR"
  | .slicePush => "SLICE_PUSH"
  | .sliceTs16 => "SLICE_TS16"
  | .sliceCommit => "SLICE_COMMIT"
  | .slicePop => "SLICE_POP"
  | .byteAt => "BYTE_AT"
  | .extract => "EXTRACT"

/-- The register names as they are written (20_memory.md R65). -/
def registerText : Reg → String
  | .cmd => "CMD"
  | .status => "STATUS"
  | .errCmd => "ERR_CMD"
  | .crcReg => "CRC_REG"
  | .crcRes => "CRC_RES"
  | .sliceDf => "SLICE_DF"
  | .sliceCa => "SLICE_CA"
  | .sliceIcao => "SLICE_ICAO"
  | .sliceTc => "SLICE_TC"
  | .sliceMeHi => "SLICE_ME_HI"
  | .sliceMeLo => "SLICE_ME_LO"
  | .slicePi => "SLICE_PI"
  | .sliceSyn => "SLICE_SYN"
  | .sliceTsHi => "SLICE_TS_HI"
  | .sliceTsLo => "SLICE_TS_LO"
  | .extHi => "EXT_HI"
  | .extLo => "EXT_LO"
  | .sbW0 => "SB_W0"
  | .sbW1 => "SB_W1"
  | .sbW2 => "SB_W2"
  | .sbW3 => "SB_W3"
  | .samplesHi => "SAMPLES_HI"
  | .samplesLo => "SAMPLES_LO"
  | .demodPosHi => "DEMOD_POS_HI"
  | .demodPosLo => "DEMOD_POS_LO"
  | .framesEmitted => "FRAMES_EMITTED"
  | .framesDropped => "FRAMES_DROPPED"
  | .preMatches => "PRE_MATCHES"
  | .params => "PARAMS"

/-- A blank: a space or a tab. -/
def isBlank (c : Char) : Bool := c == ' ' || c == '\t'

/-- A text without the blanks at its two ends. -/
def trim (t : List Char) : List Char := ((t.dropWhile isBlank).reverse.dropWhile isBlank).reverse

/-- A digit stands for its place in the row of its base's digits; a character outside the row is no digit. -/
def digitIn (row : String) (c : Char) : Option Nat := row.toList.findIdx? (· == c)

/-- A decimal digit (30_encoding.md R97). -/
def decimalDigit : Char → Option Nat := digitIn "0123456789"

/-- A hexadecimal digit, in upper case as the spec's frames are written (00_scope.md R12) or in lower case (log 10). -/
def hexDigit (c : Char) : Option Nat := digitIn "0123456789ABCDEF" c <|> digitIn "0123456789abcdef" c

/-- The digits of a number in a base, most significant first. -/
def digitsValue (base : Nat) (digit : Char → Option Nat) : Nat → List Char → Option Nat
  | acc, [] => some acc
  | acc, c :: cs => do digitsValue base digit (base * acc + (← digit c)) cs

/-- An operand: "decimal, or hexadecimal with `0x`" (30_encoding.md R97). -/
def number : List Char → Option Nat
  | [] => none
  | ['0', 'x'] => none
  | '0' :: 'x' :: ds => digitsValue 16 hexDigit 0 ds
  | ds => digitsValue 10 decimalDigit 0 ds

/-- The bytes of a hex string, "two digits per byte", from byte 0 on (00_scope.md R12). -/
def hexBytes : List Char → Option (List Nat)
  | [] => some []
  | [_] => none
  | a :: b :: cs => do
    let hi ← hexDigit a
    let lo ← hexDigit b
    let rest ← hexBytes cs
    return (16 * hi + lo) :: rest

/-- The pieces of a text between commas. -/
def splitCommas : List Char → List (List Char)
  | [] => [[]]
  | ',' :: cs => [] :: splitCommas cs
  | c :: cs =>
    match splitCommas cs with
    | [] => [[c]]
    | piece :: pieces => (c :: piece) :: pieces

/-- The operands of a line, none when nothing follows the mnemonic. -/
def operandTexts (t : List Char) : List (List Char) :=
  if trim t = [] then [] else (splitCommas t).map trim

/-- Every operand as a number. -/
def numbers (ts : List (List Char)) : Option (List Nat) := ts.mapM number

/-- The line a pseudo-instruction stands for (30_encoding.md R98), or a register read (R97). -/
def pseudoLine (name : List Char) (ops : List (List Char)) : Option AsmLine :=
  if name = "LOAD_FRAME".toList then
    match ops with
    | [h] => (hexBytes h).map .loadFrame
    | _ => none
  else if name = "SET_TS".toList then
    match ops with
    | [t] => (number t).map .setTs
    | _ => none
  else if name = "CRC_BYTES".toList then
    match ops with
    | [h] => (hexBytes h).map .crcBytes
    | _ => none
  else if name = "CRC_OF".toList then
    match ops with
    | [h] => (hexBytes h).map .crcOf
    | _ => none
  else if name = "RECV".toList then
    match ops with
    | [] => some .recv
    | _ => none
  else if name = "SAMPLES".toList then
    match ops with
    | [v, n] => do return .samples (← number v) (← number n)
    | _ => none
  else if name = "read".toList then
    match ops with
    | [r] => (registers.find? fun x => decide ((registerText x).toList = r)).map .read
    | _ => none
  else none

/-- The line a name and its operands stand for. -/
def lineOf (name : List Char) (ops : List (List Char)) : Option AsmLine :=
  match Mnemonic.all.find? fun m => decide ((mnemonicText m).toList = name) with
  | some m => (numbers ops).map (.command m)
  | none => pseudoLine name ops

/-- The events of one line of text: nothing for a line that is empty or only a comment (`;` starts one), an assembly
error for a line that is no command (30_encoding.md R97). -/
def assembleText (text : List Char) : Option (List HostEvent) :=
  let line := trim (text.takeWhile (· ≠ ';'))
  if line = [] then some []
  else do
    let l ← lineOf (line.takeWhile (!isBlank ·)) (operandTexts (line.dropWhile (!isBlank ·)))
    assemble l

/-- The events of a program's text, line after line. -/
def assembleProgram : List (List Char) → Option (List HostEvent)
  | [] => some []
  | t :: ts => do
    let a ← assembleText t
    let as ← assembleProgram ts
    return a ++ as

end Sys2Proof.Machine
end

