-- ==== Sys2Proof/Safety.lean ====
section
/-! DEFINITION. What a safe run is: the launches the model accepts, the invariants of 10_state.md R39, the errors each
command raises (60_exceptions.md R280), and the notions the statements are written in. -/

namespace Sys2Proof.Machine

/-- A state a step goes on from: one bus master at most (00_scope.md R7), legal build parameters (R8), and no reserved
error code (93_implementation_defined.md I11). -/
structure State.Accepted (s : State) : Prop where
  oneMaster    : s.masters ≤ 1
  legalParams  : s.params.legal = true
  codeNotReserved : reservedCode s.blk.errCode = false

/-! ### Invariants (10_state.md R39) -/

/-- The invariants of the demodulator. -/
structure DemodInv (p : Params) (b : Block) : Prop where
  /-- R39(a): `n_p = floor(n_in / 2)`. -/
  powersPaired : b.ph.length = b.nIn.toNat / 2
  /-- R39(b), a running stream: `pend_v = n_in mod 2`. -/
  pendRunning : b.ended = false → b.pendV.toNat = b.nIn.toNat % 2
  /-- R39(b), an ended stream: `pend_v = 0`. -/
  pendEnded : b.ended = true → b.pendV = false
  /-- R39(c): in a running stream every position whose window is complete has been tried or skipped. -/
  windowsTried : b.ended = false → b.ph.length < b.kpos.toNat + window p
  /-- R39(d): `len(fifo) ≤ FIFO_DEPTH`. -/
  fifoFits : b.fifo.length ≤ p.fifoDepth
  /-- R39(g): the timestamps strictly increase from head to tail. -/
  fifoOrdered : b.fifo.Pairwise fun e e' => e.ts.toNat < e'.ts.toNat
  /-- A position is never beyond the power samples there are: it is raised only to the end of a complete window. -/
  positionWithin : b.kpos.toNat ≤ b.ph.length
  /-- A queued frame began before the next position (43_demod.md R195, R196). -/
  fifoBefore : ∀ e ∈ b.fifo, e.ts.toNat < 2 * dataStart p b.kpos.toNat
  /-- With `SKIP_FRAME` queued frames are at least `2W` apart (43_demod.md R204). -/
  fifoSpaced : p.resume = .skipFrame →
    (b.fifo.Pairwise fun e e' => e.ts.toNat + 2 * window p ≤ e'.ts.toNat) ∧
    ∀ e ∈ b.fifo, e.ts.toNat + 2 * window p ≤ 2 * dataStart p b.kpos.toNat
  /-- The demodulator emits only frames with downlink format 17 or 18 (44_rawframe.md R250). -/
  fifoFormats : ∀ e ∈ b.fifo, downlinkFormat e.fb = 17 ∨ downlinkFormat e.fb = 18
  /-- Every power sample lies in [0, 2^23] (10_state.md R28, 43_demod.md R182). -/
  powersBounded : ∀ x ∈ b.ph, x.toNat ≤ 2 ^ 23

/-- The invariants of the slicer. -/
structure SliceInv (b : Block) : Prop where
  /-- R39(e): `valid = 1` implies `checked = 1`, `syn = 0` and `sb_n = 14`. -/
  validMeans : b.valid = true → b.checked = true ∧ b.syn = 0 ∧ b.sbN = 14
  /-- R39(f): the buffer is zero from `sb_n` on. -/
  zeroBeyond : ∀ i, b.sbN.val ≤ i → i < 14 → bufferByte b.sb i = 0
  /-- 10_state.md R36: `checked = 1` means that SLICE_COMMIT has run on these contents and this timestamp. -/
  checkedMeans : b.checked = true →
    b.sbN = 14 ∧ b.sbTs.getLsbD 63 = false ∧ b.syn = syndrome b.sb ∧ b.valid = (b.syn == 0)
  /-- 10_state.md R36, 41_slice_buffer.md R125: otherwise `valid` and `syn` are 0. -/
  uncheckedMeans : b.checked = false → b.valid = false ∧ b.syn = 0

/-- The invariants of the error record: it is empty while `err` is 0 (20_memory.md R67), and what it holds otherwise
is the code of an error (60_exceptions.md R280). -/
structure ErrorInv (b : Block) : Prop where
  emptyRecord : b.err = false → b.errMore = false ∧ b.errCode = 0 ∧ b.errCmd = 0
  recordedCode : b.err = true → ∃ c : ErrorCode, b.errCode = c.code

/-- All of them, of a machine whose launch is accepted. -/
structure Inv (s : State) : Prop where
  oneMaster   : s.masters ≤ 1
  legalParams : s.params.legal = true
  demod       : DemodInv s.params s.blk
  slice       : SliceInv s.blk
  errors      : ErrorInv s.blk

/-- The sample counter is far from wrapping: the launch premise of 70_reset_and_hazards.md R331 (log 7). -/
def Block.farFromWrap (b : Block) : Prop := b.nIn.toNat < 2 ^ 62

/-! ### Errors of commands (60_exceptions.md R280, R281, R283) -/

/-- The error a command raises in a block state, if any: each command's checks in the order its rule lists them. -/
def errorRaised (i : Instr) (b : Block) : Option ErrorCode :=
  match i with
  | .slicePush _ => if b.sbN.val = 14 then some .full else none
  | .sliceCommit =>
    if 2 ^ 63 ≤ b.sbTs.toNat then some .tsNeg else if b.sbN.val = 14 then none else some .len
  | .byteAt idx => if idx.toNat < b.sbN.val then none else some .index
  | .extract lo hi =>
    if hi.toNat < lo.toNat ∨ b.sbN.val < hi.toNat then some .range
    else if lo.toNat + 8 ≤ hi.toNat then some .span else none
  | .slicePop => if b.fifo = [] then some .empty else none
  | .sample _ => if b.ended then some .ended else none
  | .nop | .errClear | .softReset | .crcInit | .crcBit _ | .crcByte _ | .crcFinal | .eos | .demodReset
  | .sliceClear | .sliceTs16 _ => none

/-! ### Hidden history (10_state.md R28, R41) -/

/-- Two block states that differ at most in power samples before `p[kpos - 1]`, which no rule reads again
(10_state.md R28). -/
structure SameFromWindow (b b' : Block) : Prop where
  elsewhere : b' = { b with ph := b'.ph }
  lengths   : b'.ph.length = b.ph.length
  window    : ∀ j, b.kpos.toNat ≤ j + 1 → b'.ph.getD j 0 = b.ph.getD j 0

/-! ### Sequences of commands, and the ideal signal -/

/-- Commands executed one after another. -/
def execAll : List Instr → State → Host.Outcome State Fault Refusal
  | [], s => .next s
  | i :: is, s =>
    match exec i s with
    | .next t => execAll is t
    | .fault r => .fault r
    | .refused r => .refused r

/-- `n` power samples of one level: high or silent. -/
def levelRun (high : Bits24) (n : Nat) (on : Bool) : List Bits24 := List.replicate n (if on then high else 0)

/-- The 8 µs preamble of an ideal frame, half-microsecond by half-microsecond: pulses start at 0, 1, 3.5 and 4.5 µs
(43_demod.md R188, 95_test_vectors.md section 2.4). -/
def idealPreamble (high : Bits24) (u : Nat) : List Bits24 :=
  [true, false, true, false, false, false, false, true, false, true,
   false, false, false, false, false, false].flatMap (levelRun high u)

/-- An ideal data bit: power in its first half for a 1, in its second half for a 0 (95_test_vectors.md section 2.4). -/
def idealBit (high : Bits24) (u : Nat) (b : Bool) : List Bits24 := levelRun high u b ++ levelRun high u (!b)

/-- The power samples of an ideal frame: the preamble, then its 112 bits, most significant first
(95_test_vectors.md section 2.4). -/
def idealFrame (high : Bits24) (u : Nat) (fb : Vector Byte 14) : List Bits24 :=
  idealPreamble high u ++ (bitsOfBytes fb.toList).flatMap (idealBit high u)

end Sys2Proof.Machine
end

