-- ==== Sys2Proof/Certificates/Slice0/Obligations.lean ====
section
/-! DEFINITION. The statements for the provers, in the order of the spec's files. Each says which rule it states; what
rests on a choice of the model's says so and names the log entry. -/

open Sys2Proof Sys2Proof.Machine

/-! ### Encoding (30_encoding.md) -/

/-- R99: the eight example words and the three words that raise `E_ILLEGAL`. -/
def Obligations.EncodingExamples : Prop :=
  (∀ e ∈ [(Instr.crcByte 0x8D, 0x1200008D#32), (.crcBit 1, 0x11000001#32), (.sample 3048, 0x20000BE8#32),
          (.slicePush 0xE5, 0x310000E5#32), (.sliceTs16 0x1234, 0x32001234#32), (.byteAt 13, 0x3800000D#32),
          (.extract 1 4, 0x39000041#32), (.extract 4 11, 0x390000B4#32)],
    encode e.1 = e.2 ∧ decode e.2 = .command e.1) ∧
  ∀ w ∈ [0x12000100#32, 0x14000000#32, 0xFFFFFFFF#32], ∀ s : State,
    executeCommand w s = .next { s with blk := s.blk.recordError .illegal w }

/-- Decoding and encoding agree, for every command, every value of its operands and every word: the word of a command decodes
to it, and a word that decodes to a command is that command's only word, so that no bit is dropped (R90 to R93, R96). -/
def Obligations.DecodeAndEncodeAgree : Prop :=
  (∀ i : Instr, decode (encode i) = .command i) ∧ ∀ (w : Word) (i : Instr), decode w = .command i → encode i = w

/-- R93: the opcode map, row by row (mnemonic, OPC, format, match, mask), and that at most one row matches any word. -/
def Obligations.OpcodeMap : Prop :=
  (Mnemonic.all.map fun m => (mnemonicText m, m.opcode, m.format, m.matchWord, m.mask)) =
    [("NOP", 0x00#8, Format.none, 0x00000000#32, 0xFFFFFFFF#32), ("ERR_CLEAR", 0x01#8, .none, 0x01000000#32, 0xFFFFFFFF#32),
     ("SOFT_RESET", 0x02#8, .none, 0x02000000#32, 0xFFFFFFFF#32), ("CRC_INIT", 0x10#8, .none, 0x10000000#32, 0xFFFFFFFF#32),
     ("CRC_BIT", 0x11#8, .bit, 0x11000000#32, 0xFFFFFFFE#32), ("CRC_BYTE", 0x12#8, .byte, 0x12000000#32, 0xFFFFFF00#32),
     ("CRC_FINAL", 0x13#8, .none, 0x13000000#32, 0xFFFFFFFF#32), ("SAMPLE", 0x20#8, .sample, 0x20000000#32, 0xFFFFF000#32),
     ("EOS", 0x21#8, .none, 0x21000000#32, 0xFFFFFFFF#32), ("DEMOD_RESET", 0x22#8, .none, 0x22000000#32, 0xFFFFFFFF#32),
     ("SLICE_CLEAR", 0x30#8, .none, 0x30000000#32, 0xFFFFFFFF#32), ("SLICE_PUSH", 0x31#8, .byte, 0x31000000#32, 0xFFFFFF00#32),
     ("SLICE_TS16", 0x32#8, .half, 0x32000000#32, 0xFFFF0000#32), ("SLICE_COMMIT", 0x33#8, .none, 0x33000000#32, 0xFFFFFFFF#32),
     ("SLICE_POP", 0x34#8, .none, 0x34000000#32, 0xFFFFFFFF#32), ("BYTE_AT", 0x38#8, .index, 0x38000000#32, 0xFFFFFFF0#32),
     ("EXTRACT", 0x39#8, .range, 0x39000000#32, 0xFFFFFF00#32)] ∧
  (∀ m : Mnemonic, m ∈ Mnemonic.all) ∧
  ∀ (w : Word) (m m' : Mnemonic), w &&& m.mask = m.matchWord → w &&& m'.mask = m'.matchWord → m = m'

/-- R96: a word that selects a row performs that row's command with its operand fields, any other raises `E_ILLEGAL` and
records itself; every word does exactly one of the two; a known opcode with a bit outside the row's fields set is illegal;
word 0 is NOP. -/
def Obligations.EveryWordIsOneCommandOrIllegal : Prop :=
  (∀ (w : Word) (s : State),
    ((∃! m : Mnemonic, w &&& m.mask = m.matchWord) ∧
      ∀ m : Mnemonic, w &&& m.mask = m.matchWord → executeCommand w s = exec (m.build w) s) ∨
    ((∀ m : Mnemonic, w &&& m.mask ≠ m.matchWord) ∧
      executeCommand w s = .next { s with blk := s.blk.recordError .illegal w })) ∧
  (∀ (m : Mnemonic) (w : Word) (s : State), w.extractLsb' 24 8 = m.opcode → w &&& m.mask ≠ m.matchWord →
    executeCommand w s = .next { s with blk := s.blk.recordError .illegal w }) ∧
  decode 0 = .command .nop

/-- R95: the reserved opcodes are exactly the ones listed, and a word with one is illegal. -/
def Obligations.ReservedOpcodesAreIllegal : Prop :=
  ∀ (w : Word) (s : State),
    let opc := (w.extractLsb' 24 8).toNat
    ((∀ m : Mnemonic, m.opcode.toNat ≠ opc) ↔
      (0x03 ≤ opc ∧ opc ≤ 0x0F) ∨ (0x14 ≤ opc ∧ opc ≤ 0x1F) ∨ (0x23 ≤ opc ∧ opc ≤ 0x2F) ∨
      (0x35 ≤ opc ∧ opc ≤ 0x37) ∨ (0x3A ≤ opc ∧ opc ≤ 0xFF)) ∧
    ((∀ m : Mnemonic, m.opcode.toNat ≠ opc) →
      decode w = .illegal .reservedOpcode ∧
      executeCommand w s = .next { s with blk := s.blk.recordError .illegal w })

/-- The host's `LOAD_FRAME` (R98, 41_slice_buffer.md R120, R121): SLICE_CLEAR and 14 pushes leave exactly those bytes, with
`sb_ts` = 0. -/
def Obligations.LoadFrameLoadsTheFrame : Prop :=
  ∀ (h : Vector Byte 14) (s : State), ∃ t,
    execAll (.sliceClear :: h.toList.map .slicePush) s = .next t ∧
    t = { s with blk := { s.blk with sb := h, sbN := 14, sbTs := 0, valid := false, checked := false, syn := 0 } }

/-! ### The bus and the step (20_memory.md, 00_scope.md) -/

/-- A step runs the decoded command: with the write of its word to CMD next, and the launch accepted, the step is `exec` of
it, the event taken off the host's list. -/
def Obligations.StepRunsDecodedCommand : Prop :=
  ∀ (s : State) (w : Word) (i : Instr) (rest : List HostEvent),
    s.Accepted → s.pending = .busWrite 0 w :: rest → decode w = .command i →
    step s = exec i { s with pending := rest }

/-- R61: a write to word 0 executes the command word, a write to any other word is ignored, and no other event but reset
changes the block. -/
def Obligations.BusWriteExecutesOrIsIgnored : Prop :=
  (∀ (s : State) (widx : WordIndex) (v : Word) (rest : List HostEvent),
    s.Accepted → s.pending = .busWrite widx v :: rest →
    (widx = 0 → step s = executeCommand v { s with pending := rest }) ∧
    (widx ≠ 0 → step s = .next { s with pending := rest })) ∧
  ∀ s t : State, step s = .next t → t.blk ≠ s.blk →
    ∃ rest, (∃ w, s.pending = .busWrite 0 w :: rest) ∨ s.pending = .powerOnReset :: rest

/-- R62: a read returns the register map's word for the current state and has no effect on the block; two reads in a row
return the same word. That the words read stand in `rdata` is the model's record (log 2). -/
def Obligations.BusReadHasNoSideEffect : Prop :=
  ∀ (s : State) (widx : WordIndex) (rest : List HostEvent), s.Accepted →
    (s.pending = .busRead widx :: rest →
      step s = .next { s with pending := rest, rdata := s.rdata ++ [busRead widx s] }) ∧
    (s.pending = .busRead widx :: .busRead widx :: rest →
      core.run 2 s = .next { s with pending := rest, rdata := s.rdata ++ [busRead widx s, busRead widx s] })

/-- R63: reserved bits, the unmapped words 0x74 to 0x7C and CMD read 0. -/
def Obligations.ReservedAndUnmappedReadZero : Prop :=
  ∀ s : State,
    (busRead 0 s = 0 ∧ busRead 29 s = 0 ∧ busRead 30 s = 0 ∧ busRead 31 s = 0) ∧
    ((busRead 1 s).extractLsb' 2 2 = 0 ∧ (busRead 1 s).extractLsb' 11 1 = 0 ∧ (busRead 1 s).extractLsb' 18 2 = 0 ∧
      (busRead 1 s).extractLsb' 24 8 = 0) ∧
    (busRead 28 s).extractLsb' 13 3 = 0 ∧
    (∀ widx ∈ [3, 4, 7, 9, 11, 12, 15], (busRead widx s).extractLsb' 24 8 = 0) ∧
    (∀ widx ∈ [5, 8], (busRead widx s).extractLsb' 5 27 = 0) ∧
    (busRead 6 s).extractLsb' 3 29 = 0 ∧ (busRead 20 s).extractLsb' 0 16 = 0

/-- R66: the fields of STATUS; a write to it does nothing, and it changes only when a command word is executed or at reset. -/
def Obligations.StatusShowsTheFlags : Prop :=
  (∀ (v : Word) (s : State), busWrite 1 v s = .next s) ∧
  (∀ s t : State, step s = .next t → busRead 1 t ≠ busRead 1 s →
    ∃ rest, (∃ w, s.pending = .busWrite 0 w :: rest) ∨ s.pending = .powerOnReset :: rest) ∧
  ∀ s : State,
    let w := busRead 1 s
    w.getLsbD 0 = s.blk.err ∧ w.getLsbD 1 = s.blk.errMore ∧ w.extractLsb' 2 2 = 0 ∧ w.extractLsb' 4 4 = s.blk.errCode ∧
    w.getLsbD 8 = s.blk.ended ∧ w.getLsbD 9 = s.blk.ovf ∧ w.getLsbD 10 = s.blk.pendV ∧ w.extractLsb' 11 1 = 0 ∧
    (w.extractLsb' 12 4).toNat = s.blk.sbN.val ∧ w.getLsbD 16 = s.blk.valid ∧ w.getLsbD 17 = s.blk.checked ∧
    w.extractLsb' 18 2 = 0 ∧ w.extractLsb' 24 8 = 0 ∧
    (s.params.legal = true → s.blk.fifo.length ≤ s.params.fifoDepth → (w.extractLsb' 20 4).toNat = s.blk.fifo.length)

/-- R67: ERR_CMD reads the command word of the first error since the record was empty, and 0 while there is none.
R68, R70 and R71: the CRC registers read zero-extended; SB_W0 to SB_W3 pack the buffer big-endian; EXT, SAMPLES and DEMOD_POS
are read as a high and a low word; the counters as they are. The syndrome and the timestamp are read ungated (R69). -/
def Obligations.RegistersShowTheState : Prop :=
  (∀ s : State, busRead 2 s = s.blk.errCmd ∧ (ErrorInv s.blk → s.blk.err = false → busRead 2 s = 0)) ∧
  (∀ (c : ErrorCode) (w : Word) (s : State), ∃ t, raiseError c w s = .next t ∧
    busRead 2 t = if s.blk.err then busRead 2 s else w) ∧
  (∀ s : State,
    busRead 3 s = 0#8 ++ s.blk.crcR ∧ busRead 4 s = 0#8 ++ s.blk.crcRes ∧
    busRead 12 s = 0#8 ++ s.blk.syn ∧ busRead 13 s ++ busRead 14 s = s.blk.sbTs ∧
    busRead 15 s = 0#8 ++ (busRead 15 s).extractLsb' 0 24 ∧
    (busRead 15 s).extractLsb' 0 24 ++ busRead 16 s = s.blk.ext ∧
    busRead 21 s ++ busRead 22 s = s.blk.nIn ∧ busRead 23 s ++ busRead 24 s = s.blk.kpos ∧
    busRead 25 s = s.blk.cntEmit ∧ busRead 26 s = s.blk.cntDrop ∧ busRead 27 s = s.blk.cntPre) ∧
  ∀ s : State,
    let sb := fun i => bufferByte s.blk.sb i
    busRead 17 s = sb 0 ++ sb 1 ++ sb 2 ++ sb 3 ∧
    busRead 18 s = sb 4 ++ sb 5 ++ sb 6 ++ sb 7 ∧
    busRead 19 s = sb 8 ++ sb 9 ++ sb 10 ++ sb 11 ∧
    busRead 20 s = sb 12 ++ sb 13 ++ 0#16 ∧
    ∀ m i : Nat, m < 4 → i < 4 → 4 * m + i < 14 → SliceInv s.blk → s.blk.sbN.val ≤ 4 * m + i →
      (busRead (BitVec.ofNat 5 (17 + m)) s).extractLsb' (24 - 8 * i) 8 = 0

/-- R72: the fields of PARAMS for every legal build, and its value for the default configuration. -/
def Obligations.ParamsShowsTheBuild : Prop :=
  (∀ s : State, s.params.legal = true →
    let w := busRead 28 s
    (w.extractLsb' 0 8).toNat = s.params.pPerUs ∧ (w.extractLsb' 8 4).toNat = s.params.fifoDepth ∧
    (w.getLsbD 12 = true ↔ s.params.resume = .oneSample) ∧ w.extractLsb' 13 3 = 0 ∧
    (w.extractLsb' 16 4).toNat = s.params.preNum ∧ (w.extractLsb' 20 4).toNat = s.params.preDen ∧
    w.extractLsb' 24 8 = 0x00) ∧
  ∀ s : State, s.params = Params.reference → busRead 28 s = 0x0012020A

/-- A launch with more than one bus master is refused (00_scope.md R7), and one with illegal build parameters (the model's
choice, log 5); no step changes the build parameters, "constant during operation" (R8), or the launch; a host with nothing
left to do changes nothing (R6, R294; that such a step answers the same state is the model's, log 1). -/
def Obligations.LaunchIsCheckedAndKept : Prop :=
  (∀ s : State,
    (1 < s.masters → step s = .refused .moreThanOneMaster) ∧
    (s.masters ≤ 1 → s.params.legal = false → step s = .refused .illegalParameters)) ∧
  (∀ s t : State, step s = .next t → t.params = s.params ∧ t.masters = s.masters) ∧
  ∀ s : State, s.Accepted → s.pending = [] → step s = .next s

/-! ### Reset and control (70_reset_and_hazards.md, 45_control.md) -/

/-- R310 and R272: after power-on reset and after SOFT_RESET, from any state, every element is 0 or empty, so that every register
but PARAMS reads 0; the parameters are not changed. -/
def Obligations.ResetClearsEverything : Prop :=
  let zero : Block :=
    { err := false, errMore := false, errCode := 0, errCmd := 0, crcR := 0, crcRes := 0, pendV := false, pendS := 0, nIn := 0
      ph := [], kpos := 0, ended := false, fifo := [], ovf := false, cntEmit := 0, cntDrop := 0, cntPre := 0
      sb := #v[0, 0, 0, 0, 0, 0, 0, 0, 0, 0, 0, 0, 0, 0], sbN := 0, sbTs := 0, valid := false, checked := false, syn := 0, ext := 0 }
  State.reset.blk = zero ∧
  (∀ (s : State) (rest : List HostEvent), s.Accepted → s.pending = .powerOnReset :: rest →
    step s = .next { s with pending := rest, blk := zero }) ∧
  encode .softReset = 0x02000000 ∧
  (∀ s : State, exec .softReset s = .next { s with blk := zero }) ∧
  (∀ s t : State, exec .softReset s = .next t → busRead 1 t = 0 ∧ busRead 28 t = busRead 28 s) ∧
  ∀ (s : State) (widx : WordIndex), s.blk = zero → widx ≠ 28 → busRead widx s = 0

/-- R270: NOP changes nothing, and no other word with its opcode is a NOP. -/
def Obligations.NopChangesNothing : Prop :=
  encode .nop = 0x00000000 ∧
  (∀ s : State, exec .nop s = .next s ∧ executeCommand 0 s = .next s) ∧
  ∀ (x : BitVec 24) (s : State), x ≠ 0 →
    executeCommand (0x00#8 ++ x) s = .next { s with blk := s.blk.recordError .illegal (0x00#8 ++ x) }

/-- R271: ERR_CLEAR clears the error record and `ovf`, and changes no other state. -/
def Obligations.ErrClearAcknowledges : Prop :=
  encode .errClear = 0x01000000 ∧
  ∀ s : State, exec .errClear s =
    .next { s with blk := { s.blk with err := false, errMore := false, errCode := 0, errCmd := 0, ovf := false } }

/-! ### The CRC unit (42_crc24.md) -/

/-- R151: one bit step is a shift with the bit injected and, when a 1 leaves position 23, an exclusive-or with the
generator; as polynomials over GF(2) it is `r·x + b` modulo `P`. -/
def Obligations.CrcStepIsPolynomialStep : Prop :=
  let poly (bits : List Bool) : Polynomial (ZMod 2) :=
    bits.foldl (fun acc b => acc * Polynomial.X + (if b then 1 else 0)) 0
  let ofReg (r : Bits24) : Polynomial (ZMod 2) := poly ((List.range 24).map fun i => r.getMsbD i)
  let P : Polynomial (ZMod 2) := Polynomial.X ^ 24 + ofReg 0xFFF409
  ∀ (r : Bits24) (b : Bool),
    (r.getLsbD 23 = false → (crcStep r b).toNat = (2 * r.toNat + b.toNat) % 2 ^ 24) ∧
    (r.getLsbD 23 = true → (crcStep r b).toNat = (2 * r.toNat + b.toNat) % 2 ^ 24 ^^^ 0xFFF409) ∧
    ofReg (crcStep r b) = (ofReg r * Polynomial.X + (if b then 1 else 0)) %ₘ P

/-- R153: `aug` appends 24 zero bits, `crc24` starts from 0; as polynomials over GF(2), `feed(0, s)` is `S mod P` and
`crc24(s)` is `S·x^24 mod P`, with `P` the polynomial of R150. -/
def Obligations.CrcIsPolynomialRemainder : Prop :=
  let poly (bits : List Bool) : Polynomial (ZMod 2) :=
    bits.foldl (fun acc b => acc * Polynomial.X + (if b then 1 else 0)) 0
  let ofReg (r : Bits24) : Polynomial (ZMod 2) := poly ((List.range 24).map fun i => r.getMsbD i)
  let P : Polynomial (ZMod 2) :=
    Polynomial.X ^ 24 + Polynomial.X ^ 23 + Polynomial.X ^ 22 + Polynomial.X ^ 21 + Polynomial.X ^ 20 + Polynomial.X ^ 19
      + Polynomial.X ^ 18 + Polynomial.X ^ 17 + Polynomial.X ^ 16 + Polynomial.X ^ 15 + Polynomial.X ^ 14
      + Polynomial.X ^ 13 + Polynomial.X ^ 12 + Polynomial.X ^ 10 + Polynomial.X ^ 3 + 1
  (∀ r : Bits24, augment r = feed r (List.replicate 24 false)) ∧
  ∀ bits : List Bool, crc24 bits = augment (feed 0 bits) ∧
    ofReg (feed 0 bits) = poly bits %ₘ P ∧
    ofReg (crc24 bits) = (poly bits * Polynomial.X ^ 24) %ₘ P

/-- R154: CRC_INIT clears the CRC unit, and CRC_FINAL right after it gives 0. -/
def Obligations.CrcInitClears : Prop :=
  encode .crcInit = 0x10000000 ∧
  ∀ s : State, exec .crcInit s = .next { s with blk := { s.blk with crcR := 0, crcRes := 0 } } ∧
    execAll [.crcInit, .crcFinal] s = .next { s with blk := { s.blk with crcR := 0, crcRes := 0 } }

/-- R155: CRC_BIT feeds one bit and changes nothing else; the rule's four corner values. -/
def Obligations.CrcBitFeedsOneBit : Prop :=
  (∀ b : BitVec 1, encode (.crcBit b) = 0x11#8 ++ 0#23 ++ b) ∧
  (∀ (b : BitVec 1) (s : State),
    exec (.crcBit b) s = .next { s with blk := { s.blk with crcR := crcStep s.blk.crcR (b == 1) } }) ∧
  crcStep 0x800000 false = 0xFFF409 ∧ crcStep 0x800000 true = 0xFFF408 ∧
  crcStep 0x7FFFFF true = 0xFFFFFF ∧ crcStep 0xFFFFFF false = 0x000BF7

/-- R156: CRC_BYTE completes, changes `crc_r` alone, and leaves the same state as eight CRC_BIT commands, bit 7 first. -/
def Obligations.CrcByteIsEightBits : Prop :=
  (∀ v : Byte, encode (.crcByte v) = 0x12#8 ++ 0#16 ++ v) ∧
  ∀ (v : Byte) (s : State), (∃ r, exec (.crcByte v) s = .next { s with blk := { s.blk with crcR := r } }) ∧
    exec (.crcByte v) s = execAll
      [.crcBit (v.extractLsb' 7 1), .crcBit (v.extractLsb' 6 1), .crcBit (v.extractLsb' 5 1), .crcBit (v.extractLsb' 4 1),
       .crcBit (v.extractLsb' 3 1), .crcBit (v.extractLsb' 2 1), .crcBit (v.extractLsb' 1 1), .crcBit (v.extractLsb' 0 1)] s ∧
    execAll [.crcInit, .crcByte 0x8D, .crcFinal] s =
      .next { s with blk := { s.blk with crcR := 0x00008D, crcRes := 0xF8BA93 } } ∧
    execAll [.crcInit, .crcByte 0x8D, .crcByte 0x4B, .crcByte 0x17] s =
      .next { s with blk := { s.blk with crcR := 0x8D4B17, crcRes := 0 } }

/-- R157: CRC_FINAL puts `aug(crc_r)` into `crc_res` and changes nothing else; a second one gives the same; after CRC_INIT
and the bytes of a sequence, `crc_res` is `crc24` of it. -/
def Obligations.CrcFinalGivesCrc24 : Prop :=
  encode .crcFinal = 0x13000000 ∧
  (∀ s : State,
    exec .crcFinal s = .next { s with blk := { s.blk with crcRes := feed s.blk.crcR (List.replicate 24 false) } } ∧
    execAll [.crcFinal, .crcFinal] s = exec .crcFinal s) ∧
  (∀ (bytes : List Byte) (s : State),
    execAll (.crcInit :: bytes.map .crcByte ++ [.crcFinal]) s =
      .next { s with blk := { s.blk with crcR := feed 0 (bitsOfBytes bytes), crcRes := crc24Bytes bytes } }) ∧
  crc24Bytes [0x8D, 0x4B, 0x17, 0xE5, 0xF8, 0x21, 0x00, 0x02, 0x00, 0x4B, 0xB8] = 0xB1F1AC ∧
  crc24Bytes [0x8D, 0x4B, 0x17, 0xE5, 0xF8, 0x21, 0x00, 0x02, 0x00, 0x4B, 0xB8, 0xB1, 0xF1, 0xAC] = 0

/-- R161: `crc24` is linear, gives 0 on zeros, and leading zero bytes do not change it. -/
def Obligations.CrcIsLinear : Prop :=
  (∀ a b : List Bool, a.length = b.length → crc24 (List.zipWith (· ^^ ·) a b) = crc24 a ^^^ crc24 b) ∧
  (∀ n : Nat, crc24 (List.replicate n false) = 0) ∧
  (∀ (k : Nat) (s : List Bool), crc24 (List.replicate (8 * k) false ++ s) = crc24 s) ∧
  crc24Bytes [0x00, 0x00, 0x01] = 0xFFF409 ∧ crc24Bytes [0x01] = 0xFFF409

/-- R158: an 11-byte message followed by its CRC, big-endian, checks to zero, augmented or not. -/
def Obligations.ParitySelfCheck : Prop :=
  ∀ M : List Byte, M.length = 11 →
    let T := crc24Bytes M
    let trailer : List Byte := [T.extractLsb' 16 8, T.extractLsb' 8 8, T.extractLsb' 0 8]
    crc24Bytes (M ++ trailer) = 0 ∧ feed 0 (bitsOfBytes (M ++ trailer)) = 0

/-- R159: for any 14 bytes the whole-frame check and the comparison of the CRC of the first 11 with the last 3 are the same
test. -/
def Obligations.ParityChecksAgree : Prop :=
  ∀ M T : List Byte, M.length = 11 → T.length = 3 →
    (crc24Bytes (M ++ T) = 0 ↔ (crc24Bytes M).toNat = bigEndian T)

/-- R160: flipping bit i of `n` bits changes the CRC by that of the single bit `x^(n-1-i)`, which is nonzero, at every
position and for every length; in a valid frame it gives a nonzero syndrome, 0xFFF409 for the last bit. -/
def Obligations.SingleBitErrorsDetected : Prop :=
  (∀ (bits : List Bool) (i : Nat), i < bits.length →
    crc24 (bits.modify i not) = crc24 bits ^^^ crc24 (true :: List.replicate (bits.length - 1 - i) false) ∧
    crc24 (true :: List.replicate (bits.length - 1 - i) false) ≠ 0) ∧
  ∀ bits : List Bool, bits.length = 112 → crc24 bits = 0 →
    (∀ i, i < 112 → crc24 (bits.modify i not) ≠ 0) ∧ crc24 (bits.modify 111 not) = 0xFFF409

/-- Re-signing: whatever its first 11 bytes are, a frame whose last 3 bytes are their CRC, big-endian, is one that SLICE_COMMIT
accepts (42_crc24.md R162, 44_rawframe.md R241). -/
def Obligations.ResignedFrameIsValid : Prop :=
  ∀ (s : State) (fb : Vector Byte 14),
    let T := crc24Bytes (fb.toList.take 11)
    s.blk.sb.toList = fb.toList.take 11 ++ [T.extractLsb' 16 8, T.extractLsb' 8 8, T.extractLsb' 0 8] →
    s.blk.sbN = 14 → s.blk.sbTs.toNat < 2 ^ 63 →
    exec .sliceCommit s = .next { s with blk := { s.blk with syn := 0, checked := true, valid := true } }

/-! ### The slice buffer (41_slice_buffer.md) -/

/-- R120: SLICE_CLEAR empties the buffer, clears its timestamp and withdraws the frame; nothing else changes. -/
def Obligations.SliceClearEmpties : Prop :=
  encode .sliceClear = 0x30000000 ∧
  ∀ s : State, exec .sliceClear s = .next { s with blk := { s.blk with
    sb := #v[0, 0, 0, 0, 0, 0, 0, 0, 0, 0, 0, 0, 0, 0], sbN := 0, sbTs := 0, valid := false, checked := false, syn := 0 } }

/-- R121: SLICE_PUSH appends the byte at `sb[sb_n]`, or raises `E_FULL` when the buffer holds 14 bytes. -/
def Obligations.SlicePushAppends : Prop :=
  (∀ byte : Byte, encode (.slicePush byte) = 0x31#8 ++ 0#16 ++ byte) ∧
  ∀ (byte : Byte) (s : State),
    (s.blk.sbN.val < 14 → ∃ sb n, exec (.slicePush byte) s = .next { s with blk := { s.blk with
        sb := sb, sbN := n, valid := false, checked := false, syn := 0 } } ∧
      n.val = s.blk.sbN.val + 1 ∧ bufferByte sb s.blk.sbN.val = byte ∧
      ∀ i, i ≠ s.blk.sbN.val → bufferByte sb i = bufferByte s.blk.sb i) ∧
    (s.blk.sbN.val = 14 →
      exec (.slicePush byte) s = .next { s with blk := s.blk.recordError .full (0x31#8 ++ 0#16 ++ byte) })

/-- R122: SLICE_TS16 shifts 16 bits into the low end of `sb_ts`, modulo 2^64, and withdraws the frame; four of them set all
64 bits. -/
def Obligations.SliceTs16Shifts : Prop :=
  (∀ imm16 : BitVec 16, encode (.sliceTs16 imm16) = 0x32#8 ++ 0#8 ++ imm16) ∧
  (∀ (imm16 : BitVec 16) (s : State), ∃ ts, exec (.sliceTs16 imm16) s = .next { s with blk := { s.blk with
      sbTs := ts, valid := false, checked := false, syn := 0 } } ∧
    ts.toNat = (s.blk.sbTs.toNat * 2 ^ 16 + imm16.toNat) % 2 ^ 64) ∧
  ∀ (a b c d : BitVec 16) (s : State),
    execAll [.sliceTs16 a, .sliceTs16 b, .sliceTs16 c, .sliceTs16 d] s = .next { s with blk := { s.blk with
      sbTs := a ++ b ++ c ++ d, valid := false, checked := false, syn := 0 } }

/-- R123: BYTE_AT puts the byte, unsigned, into `ext`, or raises `E_INDEX` when `idx ≥ sb_n`. -/
def Obligations.ByteAtReadsOneByte : Prop :=
  (∀ idx : BitVec 4, encode (.byteAt idx) = 0x38#8 ++ 0#20 ++ idx) ∧
  ∀ (idx : BitVec 4) (s : State),
    (idx.toNat < s.blk.sbN.val → ∃ e, exec (.byteAt idx) s = .next { s with blk := { s.blk with ext := e } } ∧
      e.toNat = (bufferByte s.blk.sb idx.toNat).toNat) ∧
    (s.blk.sbN.val ≤ idx.toNat →
      exec (.byteAt idx) s = .next { s with blk := s.blk.recordError .index (0x38#8 ++ 0#20 ++ idx) })

/-- R124: EXTRACT puts the big-endian value of bytes `[from, to)` into `ext`; the bounds are checked first, then the span. -/
def Obligations.ExtractReadsARange : Prop :=
  (∀ lo hi : BitVec 4, encode (.extract lo hi) = 0x39#8 ++ 0#16 ++ hi ++ lo) ∧
  ∀ (lo hi : BitVec 4) (s : State),
    let w : Word := 0x39#8 ++ 0#16 ++ hi ++ lo
    (hi.toNat < lo.toNat ∨ s.blk.sbN.val < hi.toNat →
      exec (.extract lo hi) s = .next { s with blk := s.blk.recordError .range w }) ∧
    (lo.toNat ≤ hi.toNat → hi.toNat ≤ s.blk.sbN.val → 8 ≤ hi.toNat - lo.toNat →
      exec (.extract lo hi) s = .next { s with blk := s.blk.recordError .span w }) ∧
    (lo.toNat ≤ hi.toNat → hi.toNat ≤ s.blk.sbN.val → hi.toNat - lo.toNat < 8 →
      ∃ e, exec (.extract lo hi) s = .next { s with blk := { s.blk with ext := e } } ∧
        e.toNat = ∑ j ∈ Finset.range (hi.toNat - lo.toNat),
          (bufferByte s.blk.sb (lo.toNat + j)).toNat * 2 ^ (8 * (hi.toNat - lo.toNat - 1 - j)))

/-- R126: what EXTRACT leaves in `ext` is what BYTE_AT of each byte, shifted, adds up to. -/
def Obligations.ExtractIsByteAtShifted : Prop :=
  ∀ (lo hi : BitVec 4) (s : State), lo.toNat ≤ hi.toNat → hi.toNat ≤ s.blk.sbN.val → hi.toNat - lo.toNat < 8 →
    ∃ t, exec (.extract lo hi) s = .next t ∧
      ∃ bytes : Nat → BitVec 56,
        (∀ j, j < hi.toNat - lo.toNat →
          ∃ t', exec (.byteAt (BitVec.ofNat 4 (lo.toNat + j))) s = .next t' ∧ t'.blk.ext = bytes j) ∧
        t.blk.ext.toNat = ∑ j ∈ Finset.range (hi.toNat - lo.toNat),
          (bytes j).toNat * 2 ^ (8 * (hi.toNat - lo.toNat - 1 - j))

/-! ### The RawFrame gate (44_rawframe.md) -/

/-- R241: SLICE_COMMIT raises `E_TS_NEG` on a negative timestamp, else `E_LEN` on a buffer that does not hold 14 bytes; else
it records the syndrome, with `valid` exactly when it is zero. -/
def Obligations.SliceCommitChecksTheFrame : Prop :=
  encode .sliceCommit = 0x33000000 ∧
  ∀ s : State,
    (s.blk.sbTs.toInt < 0 →
      exec .sliceCommit s = .next { s with blk := s.blk.recordError .tsNeg 0x33000000 }) ∧
    (0 ≤ s.blk.sbTs.toInt → s.blk.sbN.val ≠ 14 →
      exec .sliceCommit s = .next { s with blk := s.blk.recordError .len 0x33000000 }) ∧
    (0 ≤ s.blk.sbTs.toInt → s.blk.sbN.val = 14 → ∃ v : Bool,
      exec .sliceCommit s = .next { s with blk := { s.blk with
        syn := crc24Bytes s.blk.sb.toList, checked := true, valid := v } } ∧
      (v = true ↔ crc24Bytes s.blk.sb.toList = 0))

/-- R243 to R248: the field registers read the frame's bits when `valid` = 1, and 0 when `valid` = 0 (R246). -/
def Obligations.FieldRegistersAreGatedSlices : Prop :=
  ∀ s : State,
    let sb := fun i => bufferByte s.blk.sb i
    (s.blk.valid = true →
      busRead 5 s = 0#27 ++ (sb 0).extractLsb' 3 5 ∧
      busRead 6 s = 0#29 ++ (sb 0).extractLsb' 0 3 ∧
      busRead 7 s = 0#8 ++ sb 1 ++ sb 2 ++ sb 3 ∧
      busRead 8 s = 0#27 ++ (sb 4).extractLsb' 3 5 ∧
      busRead 9 s = 0#8 ++ sb 4 ++ sb 5 ++ sb 6 ∧
      busRead 10 s = sb 7 ++ sb 8 ++ sb 9 ++ sb 10 ∧
      busRead 11 s = 0#8 ++ sb 11 ++ sb 12 ++ sb 13) ∧
    (s.blk.valid = false → ∀ widx ∈ [5, 6, 7, 8, 9, 10, 11], busRead widx s = 0)

/-- R249: the parity field is bytes 11 to 13, and for a valid frame it is the CRC of the first 11 bytes. -/
def Obligations.ParityFieldOfAValidFrame : Prop :=
  ∀ s : State, parityField s.blk.sb = bufferByte s.blk.sb 11 ++ bufferByte s.blk.sb 12 ++ bufferByte s.blk.sb 13 ∧
    (SliceInv s.blk → s.blk.valid = true → parityField s.blk.sb = crc24Bytes (s.blk.sb.toList.take 11))

/-- R251: SLICE_POP moves the oldest candidate into the buffer and withdraws the frame, or raises `E_EMPTY`. -/
def Obligations.SlicePopMovesTheOldest : Prop :=
  encode .slicePop = 0x34000000 ∧
  ∀ s : State,
    (s.blk.fifo = [] → exec .slicePop s = .next { s with blk := s.blk.recordError .empty 0x34000000 }) ∧
    ∀ c rest, s.blk.fifo = c :: rest → exec .slicePop s = .next { s with blk := { s.blk with
      fifo := rest, sb := c.fb, sbN := 14, sbTs := c.ts, valid := false, checked := false, syn := 0 } }

/-! ### The demodulator (43_demod.md) -/

/-- R183 and R182: a raw sample is recentred by 2048; the power of a pair is the sum of the squares, at most 2^23, and 2^23
only when both are -2048. -/
def Obligations.PowerIsTheSumOfSquares : Prop :=
  (∀ raw : BitVec 12, (recentre raw).toInt = (raw.toNat : Int) - 2048) ∧
  ∀ a b : BitVec 12,
    ((power a b).toNat : Int) = a.toInt ^ 2 + b.toInt ^ 2 ∧ (power a b).toNat ≤ 2 ^ 23 ∧
    ((power a b).toNat = 2 ^ 23 ↔ a.toInt = -2048 ∧ b.toInt = -2048)

/-- R184 to R187: a sample after the end raises `E_ENDED`; an odd sample is held; an even one appends the power of the pair,
and the positions whose windows are complete are tried. -/
def Obligations.SampleIsHeldOrPaired : Prop :=
  (∀ raw : BitVec 12, encode (.sample raw) = 0x20#8 ++ 0#12 ++ raw) ∧
  ∀ (raw : BitVec 12) (s : State),
    (s.blk.ended = true →
      exec (.sample raw) s = .next { s with blk := s.blk.recordError .ended (0x20#8 ++ 0#12 ++ raw) }) ∧
    (s.blk.ended = false → s.blk.pendV = false →
      exec (.sample raw) s = .next { s with blk := { s.blk with
        nIn := s.blk.nIn + 1, pendS := recentre raw, pendV := true } }) ∧
    (s.blk.ended = false → s.blk.pendV = true →
      exec (.sample raw) s = .next { s with blk := tryPositions s.params { s.blk with
        nIn := s.blk.nIn + 1, ph := s.blk.ph ++ [power s.blk.pendS (recentre raw)], pendV := false } })

/-- R201 and R200: EOS ends the stream and discards an unpaired sample, a repeated EOS has no effect; DEMOD_RESET clears all
demodulator state and nothing else. -/
def Obligations.StreamEndsAndStarts : Prop :=
  encode .eos = 0x21000000 ∧
  (∀ s : State,
    (s.blk.ended = false → exec .eos s = .next { s with blk := { s.blk with ended := true, pendV := false } }) ∧
    (s.blk.ended = true → exec .eos s = .next s)) ∧
  encode .demodReset = 0x22000000 ∧
  ∀ s : State, exec .demodReset s = .next { s with blk := { s.blk with
    pendV := false, pendS := 0, nIn := 0, ph := [], kpos := 0, ended := false
    fifo := [], ovf := false, cntPre := 0, cntEmit := 0, cntDrop := 0 } }

/-- R190: the search tries the next position and searches on while its window is complete, and ends with no complete window
left; with every complete window tried before, one more power sample completes at most one, and that position alone is
tried; trying position k reads only the power samples k-1 to k+W-1. The premise `b.ph.length < 2 ^ 63` keeps `kpos` from
its wrap (log 7). -/
def Obligations.OnePositionPerPowerSample : Prop :=
  (∀ (p : Params) (b : Block), p.legal = true → b.ph.length < 2 ^ 63 →
    (tryPositions p b =
      if b.kpos.toNat + window p ≤ b.ph.length then tryPositions p (tryPosition p b.kpos.toNat b) else b) ∧
    (b.kpos.toNat + window p ≤ b.ph.length → b.kpos.toNat < (tryPosition p b.kpos.toNat b).kpos.toNat)) ∧
  (∀ (p : Params) (b : Block) (x : Bits24), p.legal = true → b.ph.length < b.kpos.toNat + window p → b.ph.length < 2 ^ 63 →
    let b' := { b with ph := b.ph ++ [x] }
    (tryPositions p b' =
      if b'.ph.length = b.kpos.toNat + window p then tryPosition p b.kpos.toNat b' else b')) ∧
  (∀ (p : Params) (b : Block), p.legal = true → b.ph.length < 2 ^ 63 →
    (tryPositions p b).ph.length < (tryPositions p b).kpos.toNat + window p) ∧
  ∀ (p : Params) (ph ph' : List Bits24) (k : Nat), p.legal = true →
    (∀ j, k ≤ j + 1 → j < k + window p → ph.getD j 0 = ph'.getD j 0) →
    preambleMatch p ph k = preambleMatch p ph' k ∧ ∀ j, j < 14 → frameByte p ph k j = frameByte p ph' k j

/-- R188, R189 and R191: the sums over the power samples at the pulse starts and in the gaps, with their bounds, and the match
test; two positions in a row never both match. -/
def Obligations.MatchTestsPeaksAgainstGaps : Prop :=
  ∀ (p : Params) (ph : List Bits24) (k : Nat),
    let u := p.pPerUs / 2
    let q := fun j => (ph.getD j 0).toNat
    let PS := fun j => ∑ i ∈ {0, 2, 7, 9}, q (j + i * u)
    let VS := ∑ i ∈ {1, 3, 4, 5, 6, 8}, q (k + i * u)
    (preambleMatch p ph k = true ↔
      (if k = 0 then 0 else PS (k - 1)) < PS k ∧ PS (k + 1) ≤ PS k ∧ p.preNum * VS ≤ p.preDen * PS k) ∧
    ((∀ x ∈ ph, x.toNat ≤ 2 ^ 23) → PS k ≤ 2 ^ 25 ∧ VS ≤ 6 * 2 ^ 23) ∧
    (preambleMatch p ph k = true → preambleMatch p ph (k + 1) = false)

/-- R191's remark on constant inputs: silence never matches, and a constant input matches at no position but 0, and there
only when the ratio lets `4·PRE_DEN ≥ 6·PRE_NUM` (a case the remark leaves out; log 11). -/
def Obligations.ConstantInputMatchesAtMostAtTheStart : Prop :=
  ∀ (p : Params) (c : Bits24) (n k : Nat), p.legal = true → k + window p ≤ n →
    preambleMatch p (List.replicate n c) k = true → c ≠ 0 ∧ k = 0 ∧ 6 * p.preNum ≤ 4 * p.preDen

/-- R192 and R193: each half-bit is the sum of its `U` power samples, a bit is 1 when the first exceeds the second, a tie
gives 0, and a byte has its first bit most significant. -/
def Obligations.BitsAndBytesOfAFrame : Prop :=
  ∀ (p : Params) (ph : List Bits24) (k : Nat),
    let u := p.pPerUs / 2
    (∀ i : Nat,
      let a := k + 16 * u + 2 * u * i
      let H1 := ∑ j ∈ Finset.range u, (ph.getD (a + j) 0).toNat
      let H2 := ∑ j ∈ Finset.range u, (ph.getD (a + u + j) 0).toNat
      (dataBit p ph k i = true ↔ H2 < H1) ∧
      ((∀ x ∈ ph, x.toNat ≤ 2 ^ 23) →
        H1 ≤ u * 2 ^ 23 ∧ H2 ≤ u * 2 ^ 23 ∧ (p.legal = true → u * 2 ^ 23 < 2 ^ 30))) ∧
    ∀ j : Nat, (frameByte p ph k j).toNat =
      ∑ i ∈ Finset.range 8, (dataBit p ph k (8 * j + i)).toNat * 2 ^ (7 - i)

/-- R194: `size(byte0)` is 14 for downlink formats 17 and 18, and 0 otherwise. -/
def Obligations.FrameSizeByFormat : Prop :=
  ∀ byte0 : Byte,
    (byte0.toNat / 8 = 17 ∨ byte0.toNat / 8 = 18 → frameSize byte0 = 14) ∧
    (byte0.toNat / 8 ≠ 17 → byte0.toNat / 8 ≠ 18 → frameSize byte0 = 0)

/-- R195, R196, R197 and R199: what trying a position does, case by case: no match; a match of length 0; a frame queued; a
frame dropped because the queue is full. -/
def Obligations.TryingAPosition : Prop :=
  ∀ (p : Params) (k : Nat) (b : Block), p.legal = true →
    let next := BitVec.ofNat 64 (if p.resume = .skipFrame then k + 240 * (p.pPerUs / 2) else k + 1)
    let byte0 := frameByte p b.ph k 0
    (preambleMatch p b.ph k = false → tryPosition p k b = { b with kpos := BitVec.ofNat 64 (k + 1) }) ∧
    (preambleMatch p b.ph k = true → frameSize byte0 = 0 →
      tryPosition p k b = { b with kpos := BitVec.ofNat 64 (k + 1), cntPre := b.cntPre + 1 }) ∧
    (preambleMatch p b.ph k = true → frameSize byte0 = 14 → b.fifo.length < p.fifoDepth → ∃ fb : Vector Byte 14,
      tryPosition p k b = { b with
        kpos := next, cntPre := b.cntPre + 1, cntEmit := b.cntEmit + 1
        fifo := b.fifo ++ [{ ts := BitVec.ofNat 64 (2 * (k + 16 * (p.pPerUs / 2))), fb := fb }] } ∧
      ∀ j, j < 14 → bufferByte fb j = frameByte p b.ph k j) ∧
    (preambleMatch p b.ph k = true → frameSize byte0 = 14 → p.fifoDepth ≤ b.fifo.length →
      tryPosition p k b = { b with
        kpos := next, cntPre := b.cntPre + 1, cntDrop := b.cntDrop + 1, ovf := true })

/-- The receiver receives: an ideal frame of any power, at the next position, after silence, with downlink format 17 or 18
and room in the queue, is matched, decoded to exactly its bytes and queued with its timestamp (R188 to R199). -/
def Obligations.IdealFrameIsReceived : Prop :=
  ∀ (p : Params) (b : Block) (high : Bits24) (fb : Vector Byte 14) (lead : List Bits24),
    p.legal = true → high ≠ 0 → lead.length = b.kpos.toNat → lead.length < 2 ^ 62 →
    (∀ j, j + 1 = lead.length → lead.getD j 0 = 0) →
    b.ph = lead ++ idealFrame high (p.pPerUs / 2) fb →
    (downlinkFormat fb = 17 ∨ downlinkFormat fb = 18) → b.fifo.length < p.fifoDepth →
    tryPositions p b = { b with
      cntPre := b.cntPre + 1, cntEmit := b.cntEmit + 1
      fifo := b.fifo ++ [{ ts := BitVec.ofNat 64 (2 * (lead.length + 16 * (p.pPerUs / 2))), fb := fb }]
      kpos := BitVec.ofNat 64 (if p.resume = .skipFrame then lead.length + 240 * (p.pPerUs / 2) else lead.length + 1) }

/-- An ended stream stays as it is until a reset: no command but DEMOD_RESET and SOFT_RESET changes its samples, position or
counters, so that a position whose window is incomplete is never tried (R202, 10_state.md R30); frames only leave the
queue, by SLICE_POP. -/
def Obligations.EndedStreamIsFrozen : Prop :=
  ∀ (i : Instr) (s t : State), s.blk.ended = true → i ≠ .demodReset → i ≠ .softReset → exec i s = .next t →
    t.blk.ended = true ∧ t.blk.nIn = s.blk.nIn ∧ t.blk.ph = s.blk.ph ∧ t.blk.kpos = s.blk.kpos ∧
    t.blk.cntPre = s.blk.cntPre ∧ t.blk.cntEmit = s.blk.cntEmit ∧ t.blk.cntDrop = s.blk.cntDrop ∧
    (t.blk.fifo = s.blk.fifo ∨ (i = .slicePop ∧ t.blk.fifo = s.blk.fifo.tail))

/-- The position never moves backwards: every command that changes `kpos` increases it or resets it to 0 (10_state.md R21),
away from the wrap (log 7). -/
def Obligations.PositionNeverMovesBack : Prop :=
  ∀ (i : Instr) (s t : State), s.params.legal = true → s.blk.ph.length < 2 ^ 62 → exec i s = .next t →
    s.blk.kpos.toNat ≤ t.blk.kpos.toNat ∨ (t.blk.kpos = 0 ∧ (i = .demodReset ∨ i = .softReset))

/-- The power samples before `p[kpos - 1]` are never read again (10_state.md R28): two states that differ at most in them
stay so under every command, and every register reads the same in both. -/
def Obligations.OldHistoryIsNeverRead : Prop :=
  ∀ (i : Instr) (s : State) (b' : Block), s.params.legal = true → s.blk.ph.length < 2 ^ 62 → SameFromWindow s.blk b' →
    ∃ t c', exec i s = .next t ∧ exec i { s with blk := b' } = .next { t with blk := c' } ∧ SameFromWindow t.blk c' ∧
      ∀ widx, busRead widx { t with blk := c' } = busRead widx t

/-! ### Errors (60_exceptions.md) -/

/-- R282, R283 and R284: the first error is recorded with its code and word, a later one only sets `err_more`; a word that no
command has is `E_ILLEGAL` and nothing else; when a command's checks, in their order, find an error, the command records
exactly that error with its own word and changes nothing else. -/
def Obligations.ErrorsArePrecise : Prop :=
  (∀ (c : ErrorCode) (w : Word) (s : State),
    (s.blk.err = false → raiseError c w s =
      .next { s with blk := { s.blk with err := true, errCode := c.code, errCmd := w } }) ∧
    (s.blk.err = true → raiseError c w s = .next { s with blk := { s.blk with errMore := true } })) ∧
  (∀ (w : Word) (s : State), (∀ i : Instr, encode i ≠ w) → executeCommand w s = raiseError .illegal w s) ∧
  ∀ (i : Instr) (s : State) (c : ErrorCode), errorRaised i s.blk = some c →
    exec i s = .next { s with blk := s.blk.recordError c (encode i) } ∧
    ∃ e m k x, s.blk.recordError c (encode i) = { s.blk with err := e, errMore := m, errCode := k, errCmd := x }

/-- 10_state.md R23: the error record is never changed by a command that raises no error, except ERR_CLEAR and the reset;
R281: the eleven commands that raise none, and the codes the others can raise. -/
def Obligations.ErrorRecordIsSticky : Prop :=
  (∀ (i : Instr) (s t : State), errorRaised i s.blk = none → i ≠ .errClear → i ≠ .softReset → exec i s = .next t →
    t.blk.err = s.blk.err ∧ t.blk.errMore = s.blk.errMore ∧ t.blk.errCode = s.blk.errCode ∧ t.blk.errCmd = s.blk.errCmd) ∧
  (∀ (i : Instr) (b : Block), i.mnemonic ∈ [.nop, .errClear, .softReset, .crcInit, .crcBit, .crcByte, .crcFinal, .eos,
    .demodReset, .sliceClear, .sliceTs16] → errorRaised i b = none) ∧
  ∀ (i : Instr) (b : Block) (c : ErrorCode), errorRaised i b = some c → (i.mnemonic, c.code) ∈
    [(Mnemonic.slicePush, 2#4), (.sliceCommit, 4#4), (.sliceCommit, 3#4), (.byteAt, 5#4), (.extract, 6#4), (.extract, 7#4),
     (.slicePop, 8#4), (.sample, 9#4)]

/-- The "written by" column of 10_state.md R22: which commands change which element (the error record apart); nothing
outside the block changes. -/
def Obligations.OnlyTheListedCommandsWrite : Prop :=
  ∀ (i : Instr) (s t : State), exec i s = .next t →
    (i.mnemonic ∉ [.crcInit, .crcBit, .crcByte, .softReset] → t.blk.crcR = s.blk.crcR) ∧
    (i.mnemonic ∉ [.crcInit, .crcFinal, .softReset] → t.blk.crcRes = s.blk.crcRes) ∧
    (i.mnemonic ∉ [.sample, .eos, .demodReset, .softReset] → t.blk.pendV = s.blk.pendV) ∧
    (i.mnemonic ∉ [.sample, .demodReset, .softReset] →
      t.blk.pendS = s.blk.pendS ∧ t.blk.nIn = s.blk.nIn ∧ t.blk.ph = s.blk.ph ∧ t.blk.kpos = s.blk.kpos ∧
      t.blk.cntPre = s.blk.cntPre ∧ t.blk.cntEmit = s.blk.cntEmit ∧ t.blk.cntDrop = s.blk.cntDrop) ∧
    (i.mnemonic ∉ [.eos, .demodReset, .softReset] → t.blk.ended = s.blk.ended) ∧
    (i.mnemonic ∉ [.sample, .slicePop, .demodReset, .softReset] → t.blk.fifo = s.blk.fifo) ∧
    (i.mnemonic ∉ [.sample, .errClear, .demodReset, .softReset] → t.blk.ovf = s.blk.ovf) ∧
    (i.mnemonic ∉ [.sliceClear, .slicePush, .slicePop, .softReset] → t.blk.sb = s.blk.sb ∧ t.blk.sbN = s.blk.sbN) ∧
    (i.mnemonic ∉ [.sliceClear, .sliceTs16, .slicePop, .softReset] → t.blk.sbTs = s.blk.sbTs) ∧
    (i.mnemonic ∉ [.sliceClear, .slicePush, .sliceTs16, .slicePop, .sliceCommit, .softReset] →
      t.blk.valid = s.blk.valid ∧ t.blk.checked = s.blk.checked ∧ t.blk.syn = s.blk.syn) ∧
    (i.mnemonic ∉ [.byteAt, .extract, .softReset] → t.blk.ext = s.blk.ext) ∧
    t.params = s.params ∧ t.masters = s.masters ∧ t.pending = s.pending ∧ t.rdata = s.rdata

/-! ### Invariants (10_state.md R39) -/

/-- The invariants hold right after reset, whatever the legal build and whatever the host is about to do
(70_reset_and_hazards.md R312). -/
def Obligations.InvariantsHoldAtReset : Prop :=
  Inv State.reset ∧ ∀ (p : Params) (events : List HostEvent), p.legal = true → Inv (launch p events)

/-- Every step keeps the slicer's invariants (R39(e), R39(f), 10_state.md R36) and those of the error record (20_memory.md R67,
60_exceptions.md R280), each from any state that meets it. -/
def Obligations.StepKeepsSliceAndErrorRecord : Prop :=
  ∀ s t : State, step s = .next t → (SliceInv s.blk → SliceInv t.blk) ∧ (ErrorInv s.blk → ErrorInv t.blk)

/-- All the invariants, the demodulator's among them, are kept by every step from a state that meets them and whose sample
counter is far from its wrap (R331, log 7). -/
def Obligations.StepKeepsEveryInvariant : Prop :=
  ∀ s t : State, Inv s → s.blk.farFromWrap → step s = .next t → Inv t

/-- From a state that meets the invariants the machine never stops: every step answers a next state. -/
def Obligations.InvariantStatesGoOn : Prop := ∀ s : State, Inv s → ∃ t, step s = .next t

/-- R39: after any number of steps of any launch, of any legal build and any host shorter than the launch premise of R331,
the seven invariants hold. -/
def Obligations.EveryRunKeepsR39 : Prop :=
  ∀ (p : Params) (events : List HostEvent) (n : Nat), p.legal = true → events.length < 2 ^ 62 →
    ∃ t, core.run n (launch p events) = .next t ∧
      let b := t.blk
      b.ph.length = b.nIn.toNat / 2 ∧
      (b.ended = false → b.pendV.toNat = b.nIn.toNat % 2) ∧ (b.ended = true → b.pendV = false) ∧
      (b.ended = false → b.ph.length < b.kpos.toNat + window p) ∧
      b.fifo.length ≤ p.fifoDepth ∧
      (b.valid = true → b.checked = true ∧ b.syn = 0 ∧ b.sbN = 14) ∧
      (∀ i, b.sbN.val ≤ i → i < 14 → bufferByte b.sb i = 0) ∧
      b.fifo.Pairwise fun e e' => e.ts.toNat < e'.ts.toNat
end

