-- ==== Sys2Proof/Laws/Decode.lean ====
section
/-! SUPPORT. The opcode map: opcode, match and mask agree, and the operand fields of an encoded command are its
operands. -/

namespace Sys2Proof

/-- Every row is listed. -/
theorem Mnemonic.mem_all (m : Mnemonic) : m ∈ Mnemonic.all := by cases m <;> decide

/-- The match column is the opcode with every other bit 0 (30_encoding.md R93). -/
theorem matchWord_eq (m : Mnemonic) : m.matchWord = m.opcode ++ 0#24 := by cases m <;> rfl

/-- "Every mask covers" bits [31:24] (30_encoding.md R93). -/
theorem mask_high (m : Mnemonic) : m.mask.extractLsb' 24 8 = 0xFF#8 := by cases m <;> rfl

/-- No two rows share an opcode (30_encoding.md R93). -/
theorem opcode_injective {m m' : Mnemonic} (h : m.opcode = m'.opcode) : m = m' := by
  cases m <;> cases m' <;> first | rfl | exact absurd h (by decide)

/-- A word that selects a row has its opcode in bits [31:24]. -/
theorem opcode_of_selects {m : Mnemonic} {w : Word} (h : m.selects w = true) : w.extractLsb' 24 8 = m.opcode := by
  have hw : w &&& m.mask = m.matchWord := by simpa [Mnemonic.selects] using h
  have h8 : (w &&& m.mask).extractLsb' 24 8 = m.matchWord.extractLsb' 24 8 := by rw [hw]
  rw [BitVec.extractLsb'_and, mask_high, matchWord_eq] at h8
  have hall : (0xFF#8) = BitVec.allOnes 8 := by decide
  rw [hall, BitVec.and_allOnes] at h8
  rw [h8, BitVec.extractLsb'_append_eq_left]

/-- The opcode of an encoded command is its row's. -/
theorem opcode_encode (i : Instr) : (encode i).extractLsb' 24 8 = i.mnemonic.opcode := by
  rw [encode, BitVec.extractLsb'_append_eq_left]

/-- The operand bits of an encoded command. -/
theorem operandBits_encode (i : Instr) : (encode i).extractLsb' 0 24 = i.operandBits := by
  rw [encode, BitVec.extractLsb'_append_eq_right]

end Sys2Proof
end

