-- ==== Sys2Proof/Laws/State.lean ====
section
/-! SUPPORT. One lemma per field of each named update of the state: what it sets, and what it leaves. -/

namespace Sys2Proof.Machine

/-! ### The machine with another block -/

@[simp] theorem setBlk_blk (b : Block) (s : State) : (s.setBlk b).blk = b := rfl
@[simp] theorem setBlk_params (b : Block) (s : State) : (s.setBlk b).params = s.params := rfl
@[simp] theorem setBlk_masters (b : Block) (s : State) : (s.setBlk b).masters = s.masters := rfl
@[simp] theorem setBlk_pending (b : Block) (s : State) : (s.setBlk b).pending = s.pending := rfl
@[simp] theorem setBlk_rdata (b : Block) (s : State) : (s.setBlk b).rdata = s.rdata := rfl
@[simp] theorem setBlk_self (s : State) : s.setBlk s.blk = s := rfl
@[simp] theorem setBlk_setBlk (b b' : Block) (s : State) : (s.setBlk b).setBlk b' = s.setBlk b' := rfl

/-! ### A launch -/

@[simp] theorem launch_blk (p : Params) (es : List HostEvent) : (launch p es).blk = Block.reset := rfl
@[simp] theorem launch_params (p : Params) (es : List HostEvent) : (launch p es).params = p := rfl
@[simp] theorem launch_masters (p : Params) (es : List HostEvent) : (launch p es).masters = 1 := rfl
@[simp] theorem launch_pending (p : Params) (es : List HostEvent) : (launch p es).pending = es := rfl
@[simp] theorem launch_rdata (p : Params) (es : List HostEvent) : (launch p es).rdata = [] := rfl

/-! ### `invalidate` (41_slice_buffer.md R125) -/

@[simp] theorem invalidate_err (b : Block) : (b.invalidate).err = b.err := rfl
@[simp] theorem invalidate_errMore (b : Block) : (b.invalidate).errMore = b.errMore := rfl
@[simp] theorem invalidate_errCode (b : Block) : (b.invalidate).errCode = b.errCode := rfl
@[simp] theorem invalidate_errCmd (b : Block) : (b.invalidate).errCmd = b.errCmd := rfl
@[simp] theorem invalidate_crcR (b : Block) : (b.invalidate).crcR = b.crcR := rfl
@[simp] theorem invalidate_crcRes (b : Block) : (b.invalidate).crcRes = b.crcRes := rfl
@[simp] theorem invalidate_pendV (b : Block) : (b.invalidate).pendV = b.pendV := rfl
@[simp] theorem invalidate_pendS (b : Block) : (b.invalidate).pendS = b.pendS := rfl
@[simp] theorem invalidate_nIn (b : Block) : (b.invalidate).nIn = b.nIn := rfl
@[simp] theorem invalidate_ph (b : Block) : (b.invalidate).ph = b.ph := rfl
@[simp] theorem invalidate_kpos (b : Block) : (b.invalidate).kpos = b.kpos := rfl
@[simp] theorem invalidate_ended (b : Block) : (b.invalidate).ended = b.ended := rfl
@[simp] theorem invalidate_fifo (b : Block) : (b.invalidate).fifo = b.fifo := rfl
@[simp] theorem invalidate_ovf (b : Block) : (b.invalidate).ovf = b.ovf := rfl
@[simp] theorem invalidate_cntEmit (b : Block) : (b.invalidate).cntEmit = b.cntEmit := rfl
@[simp] theorem invalidate_cntDrop (b : Block) : (b.invalidate).cntDrop = b.cntDrop := rfl
@[simp] theorem invalidate_cntPre (b : Block) : (b.invalidate).cntPre = b.cntPre := rfl
@[simp] theorem invalidate_sb (b : Block) : (b.invalidate).sb = b.sb := rfl
@[simp] theorem invalidate_sbN (b : Block) : (b.invalidate).sbN = b.sbN := rfl
@[simp] theorem invalidate_sbTs (b : Block) : (b.invalidate).sbTs = b.sbTs := rfl
@[simp] theorem invalidate_valid (b : Block) : (b.invalidate).valid = false := rfl
@[simp] theorem invalidate_checked (b : Block) : (b.invalidate).checked = false := rfl
@[simp] theorem invalidate_syn (b : Block) : (b.invalidate).syn = 0 := rfl
@[simp] theorem invalidate_ext (b : Block) : (b.invalidate).ext = b.ext := rfl

/-! ### ERR_CLEAR (45_control.md R271) -/

@[simp] theorem clearErrors_err (b : Block) : (b.clearErrors).err = false := rfl
@[simp] theorem clearErrors_errMore (b : Block) : (b.clearErrors).errMore = false := rfl
@[simp] theorem clearErrors_errCode (b : Block) : (b.clearErrors).errCode = 0 := rfl
@[simp] theorem clearErrors_errCmd (b : Block) : (b.clearErrors).errCmd = 0 := rfl
@[simp] theorem clearErrors_crcR (b : Block) : (b.clearErrors).crcR = b.crcR := rfl
@[simp] theorem clearErrors_crcRes (b : Block) : (b.clearErrors).crcRes = b.crcRes := rfl
@[simp] theorem clearErrors_pendV (b : Block) : (b.clearErrors).pendV = b.pendV := rfl
@[simp] theorem clearErrors_pendS (b : Block) : (b.clearErrors).pendS = b.pendS := rfl
@[simp] theorem clearErrors_nIn (b : Block) : (b.clearErrors).nIn = b.nIn := rfl
@[simp] theorem clearErrors_ph (b : Block) : (b.clearErrors).ph = b.ph := rfl
@[simp] theorem clearErrors_kpos (b : Block) : (b.clearErrors).kpos = b.kpos := rfl
@[simp] theorem clearErrors_ended (b : Block) : (b.clearErrors).ended = b.ended := rfl
@[simp] theorem clearErrors_fifo (b : Block) : (b.clearErrors).fifo = b.fifo := rfl
@[simp] theorem clearErrors_ovf (b : Block) : (b.clearErrors).ovf = false := rfl
@[simp] theorem clearErrors_cntEmit (b : Block) : (b.clearErrors).cntEmit = b.cntEmit := rfl
@[simp] theorem clearErrors_cntDrop (b : Block) : (b.clearErrors).cntDrop = b.cntDrop := rfl
@[simp] theorem clearErrors_cntPre (b : Block) : (b.clearErrors).cntPre = b.cntPre := rfl
@[simp] theorem clearErrors_sb (b : Block) : (b.clearErrors).sb = b.sb := rfl
@[simp] theorem clearErrors_sbN (b : Block) : (b.clearErrors).sbN = b.sbN := rfl
@[simp] theorem clearErrors_sbTs (b : Block) : (b.clearErrors).sbTs = b.sbTs := rfl
@[simp] theorem clearErrors_valid (b : Block) : (b.clearErrors).valid = b.valid := rfl
@[simp] theorem clearErrors_checked (b : Block) : (b.clearErrors).checked = b.checked := rfl
@[simp] theorem clearErrors_syn (b : Block) : (b.clearErrors).syn = b.syn := rfl
@[simp] theorem clearErrors_ext (b : Block) : (b.clearErrors).ext = b.ext := rfl

/-! ### A committed syndrome (44_rawframe.md R241) -/

@[simp] theorem recordSyndrome_err (x : Bits24) (b : Block) : (b.recordSyndrome x).err = b.err := rfl
@[simp] theorem recordSyndrome_errMore (x : Bits24) (b : Block) : (b.recordSyndrome x).errMore = b.errMore := rfl
@[simp] theorem recordSyndrome_errCode (x : Bits24) (b : Block) : (b.recordSyndrome x).errCode = b.errCode := rfl
@[simp] theorem recordSyndrome_errCmd (x : Bits24) (b : Block) : (b.recordSyndrome x).errCmd = b.errCmd := rfl
@[simp] theorem recordSyndrome_crcR (x : Bits24) (b : Block) : (b.recordSyndrome x).crcR = b.crcR := rfl
@[simp] theorem recordSyndrome_crcRes (x : Bits24) (b : Block) : (b.recordSyndrome x).crcRes = b.crcRes := rfl
@[simp] theorem recordSyndrome_pendV (x : Bits24) (b : Block) : (b.recordSyndrome x).pendV = b.pendV := rfl
@[simp] theorem recordSyndrome_pendS (x : Bits24) (b : Block) : (b.recordSyndrome x).pendS = b.pendS := rfl
@[simp] theorem recordSyndrome_nIn (x : Bits24) (b : Block) : (b.recordSyndrome x).nIn = b.nIn := rfl
@[simp] theorem recordSyndrome_ph (x : Bits24) (b : Block) : (b.recordSyndrome x).ph = b.ph := rfl
@[simp] theorem recordSyndrome_kpos (x : Bits24) (b : Block) : (b.recordSyndrome x).kpos = b.kpos := rfl
@[simp] theorem recordSyndrome_ended (x : Bits24) (b : Block) : (b.recordSyndrome x).ended = b.ended := rfl
@[simp] theorem recordSyndrome_fifo (x : Bits24) (b : Block) : (b.recordSyndrome x).fifo = b.fifo := rfl
@[simp] theorem recordSyndrome_ovf (x : Bits24) (b : Block) : (b.recordSyndrome x).ovf = b.ovf := rfl
@[simp] theorem recordSyndrome_cntEmit (x : Bits24) (b : Block) : (b.recordSyndrome x).cntEmit = b.cntEmit := rfl
@[simp] theorem recordSyndrome_cntDrop (x : Bits24) (b : Block) : (b.recordSyndrome x).cntDrop = b.cntDrop := rfl
@[simp] theorem recordSyndrome_cntPre (x : Bits24) (b : Block) : (b.recordSyndrome x).cntPre = b.cntPre := rfl
@[simp] theorem recordSyndrome_sb (x : Bits24) (b : Block) : (b.recordSyndrome x).sb = b.sb := rfl
@[simp] theorem recordSyndrome_sbN (x : Bits24) (b : Block) : (b.recordSyndrome x).sbN = b.sbN := rfl
@[simp] theorem recordSyndrome_sbTs (x : Bits24) (b : Block) : (b.recordSyndrome x).sbTs = b.sbTs := rfl
@[simp] theorem recordSyndrome_valid (x : Bits24) (b : Block) : (b.recordSyndrome x).valid = (x == 0) := rfl
@[simp] theorem recordSyndrome_checked (x : Bits24) (b : Block) : (b.recordSyndrome x).checked = true := rfl
@[simp] theorem recordSyndrome_syn (x : Bits24) (b : Block) : (b.recordSyndrome x).syn = x := rfl
@[simp] theorem recordSyndrome_ext (x : Bits24) (b : Block) : (b.recordSyndrome x).ext = b.ext := rfl

/-! ### The slice buffer (41_slice_buffer.md R120 to R122, 44_rawframe.md R251) -/

@[simp] theorem clearBuffer_err (b : Block) : (b.clearBuffer).err = b.err := rfl
@[simp] theorem clearBuffer_errMore (b : Block) : (b.clearBuffer).errMore = b.errMore := rfl
@[simp] theorem clearBuffer_errCode (b : Block) : (b.clearBuffer).errCode = b.errCode := rfl
@[simp] theorem clearBuffer_errCmd (b : Block) : (b.clearBuffer).errCmd = b.errCmd := rfl
@[simp] theorem clearBuffer_crcR (b : Block) : (b.clearBuffer).crcR = b.crcR := rfl
@[simp] theorem clearBuffer_crcRes (b : Block) : (b.clearBuffer).crcRes = b.crcRes := rfl
@[simp] theorem clearBuffer_pendV (b : Block) : (b.clearBuffer).pendV = b.pendV := rfl
@[simp] theorem clearBuffer_pendS (b : Block) : (b.clearBuffer).pendS = b.pendS := rfl
@[simp] theorem clearBuffer_nIn (b : Block) : (b.clearBuffer).nIn = b.nIn := rfl
@[simp] theorem clearBuffer_ph (b : Block) : (b.clearBuffer).ph = b.ph := rfl
@[simp] theorem clearBuffer_kpos (b : Block) : (b.clearBuffer).kpos = b.kpos := rfl
@[simp] theorem clearBuffer_ended (b : Block) : (b.clearBuffer).ended = b.ended := rfl
@[simp] theorem clearBuffer_fifo (b : Block) : (b.clearBuffer).fifo = b.fifo := rfl
@[simp] theorem clearBuffer_ovf (b : Block) : (b.clearBuffer).ovf = b.ovf := rfl
@[simp] theorem clearBuffer_cntEmit (b : Block) : (b.clearBuffer).cntEmit = b.cntEmit := rfl
@[simp] theorem clearBuffer_cntDrop (b : Block) : (b.clearBuffer).cntDrop = b.cntDrop := rfl
@[simp] theorem clearBuffer_cntPre (b : Block) : (b.clearBuffer).cntPre = b.cntPre := rfl
@[simp] theorem clearBuffer_sb (b : Block) : (b.clearBuffer).sb = Vector.replicate 14 0 := rfl
@[simp] theorem clearBuffer_sbN (b : Block) : (b.clearBuffer).sbN = 0 := rfl
@[simp] theorem clearBuffer_sbTs (b : Block) : (b.clearBuffer).sbTs = 0 := rfl
@[simp] theorem clearBuffer_valid (b : Block) : (b.clearBuffer).valid = false := rfl
@[simp] theorem clearBuffer_checked (b : Block) : (b.clearBuffer).checked = false := rfl
@[simp] theorem clearBuffer_syn (b : Block) : (b.clearBuffer).syn = 0 := rfl
@[simp] theorem clearBuffer_ext (b : Block) : (b.clearBuffer).ext = b.ext := rfl

@[simp] theorem pushByte_err (x : Byte) (b : Block) : (b.pushByte x).err = b.err := rfl
@[simp] theorem pushByte_errMore (x : Byte) (b : Block) : (b.pushByte x).errMore = b.errMore := rfl
@[simp] theorem pushByte_errCode (x : Byte) (b : Block) : (b.pushByte x).errCode = b.errCode := rfl
@[simp] theorem pushByte_errCmd (x : Byte) (b : Block) : (b.pushByte x).errCmd = b.errCmd := rfl
@[simp] theorem pushByte_crcR (x : Byte) (b : Block) : (b.pushByte x).crcR = b.crcR := rfl
@[simp] theorem pushByte_crcRes (x : Byte) (b : Block) : (b.pushByte x).crcRes = b.crcRes := rfl
@[simp] theorem pushByte_pendV (x : Byte) (b : Block) : (b.pushByte x).pendV = b.pendV := rfl
@[simp] theorem pushByte_pendS (x : Byte) (b : Block) : (b.pushByte x).pendS = b.pendS := rfl
@[simp] theorem pushByte_nIn (x : Byte) (b : Block) : (b.pushByte x).nIn = b.nIn := rfl
@[simp] theorem pushByte_ph (x : Byte) (b : Block) : (b.pushByte x).ph = b.ph := rfl
@[simp] theorem pushByte_kpos (x : Byte) (b : Block) : (b.pushByte x).kpos = b.kpos := rfl
@[simp] theorem pushByte_ended (x : Byte) (b : Block) : (b.pushByte x).ended = b.ended := rfl
@[simp] theorem pushByte_fifo (x : Byte) (b : Block) : (b.pushByte x).fifo = b.fifo := rfl
@[simp] theorem pushByte_ovf (x : Byte) (b : Block) : (b.pushByte x).ovf = b.ovf := rfl
@[simp] theorem pushByte_cntEmit (x : Byte) (b : Block) : (b.pushByte x).cntEmit = b.cntEmit := rfl
@[simp] theorem pushByte_cntDrop (x : Byte) (b : Block) : (b.pushByte x).cntDrop = b.cntDrop := rfl
@[simp] theorem pushByte_cntPre (x : Byte) (b : Block) : (b.pushByte x).cntPre = b.cntPre := rfl
@[simp] theorem pushByte_sb (x : Byte) (b : Block) : (b.pushByte x).sb = b.sb.setIfInBounds b.sbN.val x := rfl
@[simp] theorem pushByte_sbN (x : Byte) (b : Block) : (b.pushByte x).sbN = Fin.ofNat 15 (b.sbN.val + 1) := rfl
@[simp] theorem pushByte_sbTs (x : Byte) (b : Block) : (b.pushByte x).sbTs = b.sbTs := rfl
@[simp] theorem pushByte_valid (x : Byte) (b : Block) : (b.pushByte x).valid = false := rfl
@[simp] theorem pushByte_checked (x : Byte) (b : Block) : (b.pushByte x).checked = false := rfl
@[simp] theorem pushByte_syn (x : Byte) (b : Block) : (b.pushByte x).syn = 0 := rfl
@[simp] theorem pushByte_ext (x : Byte) (b : Block) : (b.pushByte x).ext = b.ext := rfl

@[simp] theorem shiftTimestamp_err (x : BitVec 16) (b : Block) : (b.shiftTimestamp x).err = b.err := rfl
@[simp] theorem shiftTimestamp_errMore (x : BitVec 16) (b : Block) : (b.shiftTimestamp x).errMore = b.errMore := rfl
@[simp] theorem shiftTimestamp_errCode (x : BitVec 16) (b : Block) : (b.shiftTimestamp x).errCode = b.errCode := rfl
@[simp] theorem shiftTimestamp_errCmd (x : BitVec 16) (b : Block) : (b.shiftTimestamp x).errCmd = b.errCmd := rfl
@[simp] theorem shiftTimestamp_crcR (x : BitVec 16) (b : Block) : (b.shiftTimestamp x).crcR = b.crcR := rfl
@[simp] theorem shiftTimestamp_crcRes (x : BitVec 16) (b : Block) : (b.shiftTimestamp x).crcRes = b.crcRes := rfl
@[simp] theorem shiftTimestamp_pendV (x : BitVec 16) (b : Block) : (b.shiftTimestamp x).pendV = b.pendV := rfl
@[simp] theorem shiftTimestamp_pendS (x : BitVec 16) (b : Block) : (b.shiftTimestamp x).pendS = b.pendS := rfl
@[simp] theorem shiftTimestamp_nIn (x : BitVec 16) (b : Block) : (b.shiftTimestamp x).nIn = b.nIn := rfl
@[simp] theorem shiftTimestamp_ph (x : BitVec 16) (b : Block) : (b.shiftTimestamp x).ph = b.ph := rfl
@[simp] theorem shiftTimestamp_kpos (x : BitVec 16) (b : Block) : (b.shiftTimestamp x).kpos = b.kpos := rfl
@[simp] theorem shiftTimestamp_ended (x : BitVec 16) (b : Block) : (b.shiftTimestamp x).ended = b.ended := rfl
@[simp] theorem shiftTimestamp_fifo (x : BitVec 16) (b : Block) : (b.shiftTimestamp x).fifo = b.fifo := rfl
@[simp] theorem shiftTimestamp_ovf (x : BitVec 16) (b : Block) : (b.shiftTimestamp x).ovf = b.ovf := rfl
@[simp] theorem shiftTimestamp_cntEmit (x : BitVec 16) (b : Block) : (b.shiftTimestamp x).cntEmit = b.cntEmit := rfl
@[simp] theorem shiftTimestamp_cntDrop (x : BitVec 16) (b : Block) : (b.shiftTimestamp x).cntDrop = b.cntDrop := rfl
@[simp] theorem shiftTimestamp_cntPre (x : BitVec 16) (b : Block) : (b.shiftTimestamp x).cntPre = b.cntPre := rfl
@[simp] theorem shiftTimestamp_sb (x : BitVec 16) (b : Block) : (b.shiftTimestamp x).sb = b.sb := rfl
@[simp] theorem shiftTimestamp_sbN (x : BitVec 16) (b : Block) : (b.shiftTimestamp x).sbN = b.sbN := rfl
@[simp] theorem shiftTimestamp_sbTs (x : BitVec 16) (b : Block) : (b.shiftTimestamp x).sbTs = (b.sbTs <<< 16) + x.setWidth 64 := rfl
@[simp] theorem shiftTimestamp_valid (x : BitVec 16) (b : Block) : (b.shiftTimestamp x).valid = false := rfl
@[simp] theorem shiftTimestamp_checked (x : BitVec 16) (b : Block) : (b.shiftTimestamp x).checked = false := rfl
@[simp] theorem shiftTimestamp_syn (x : BitVec 16) (b : Block) : (b.shiftTimestamp x).syn = 0 := rfl
@[simp] theorem shiftTimestamp_ext (x : BitVec 16) (b : Block) : (b.shiftTimestamp x).ext = b.ext := rfl

@[simp] theorem loadCandidate_err (c : Candidate) (b : Block) : (b.loadCandidate c).err = b.err := rfl
@[simp] theorem loadCandidate_errMore (c : Candidate) (b : Block) : (b.loadCandidate c).errMore = b.errMore := rfl
@[simp] theorem loadCandidate_errCode (c : Candidate) (b : Block) : (b.loadCandidate c).errCode = b.errCode := rfl
@[simp] theorem loadCandidate_errCmd (c : Candidate) (b : Block) : (b.loadCandidate c).errCmd = b.errCmd := rfl
@[simp] theorem loadCandidate_crcR (c : Candidate) (b : Block) : (b.loadCandidate c).crcR = b.crcR := rfl
@[simp] theorem loadCandidate_crcRes (c : Candidate) (b : Block) : (b.loadCandidate c).crcRes = b.crcRes := rfl
@[simp] theorem loadCandidate_pendV (c : Candidate) (b : Block) : (b.loadCandidate c).pendV = b.pendV := rfl
@[simp] theorem loadCandidate_pendS (c : Candidate) (b : Block) : (b.loadCandidate c).pendS = b.pendS := rfl
@[simp] theorem loadCandidate_nIn (c : Candidate) (b : Block) : (b.loadCandidate c).nIn = b.nIn := rfl
@[simp] theorem loadCandidate_ph (c : Candidate) (b : Block) : (b.loadCandidate c).ph = b.ph := rfl
@[simp] theorem loadCandidate_kpos (c : Candidate) (b : Block) : (b.loadCandidate c).kpos = b.kpos := rfl
@[simp] theorem loadCandidate_ended (c : Candidate) (b : Block) : (b.loadCandidate c).ended = b.ended := rfl
@[simp] theorem loadCandidate_fifo (c : Candidate) (b : Block) : (b.loadCandidate c).fifo = b.fifo := rfl
@[simp] theorem loadCandidate_ovf (c : Candidate) (b : Block) : (b.loadCandidate c).ovf = b.ovf := rfl
@[simp] theorem loadCandidate_cntEmit (c : Candidate) (b : Block) : (b.loadCandidate c).cntEmit = b.cntEmit := rfl
@[simp] theorem loadCandidate_cntDrop (c : Candidate) (b : Block) : (b.loadCandidate c).cntDrop = b.cntDrop := rfl
@[simp] theorem loadCandidate_cntPre (c : Candidate) (b : Block) : (b.loadCandidate c).cntPre = b.cntPre := rfl
@[simp] theorem loadCandidate_sb (c : Candidate) (b : Block) : (b.loadCandidate c).sb = c.fb := rfl
@[simp] theorem loadCandidate_sbN (c : Candidate) (b : Block) : (b.loadCandidate c).sbN = 14 := rfl
@[simp] theorem loadCandidate_sbTs (c : Candidate) (b : Block) : (b.loadCandidate c).sbTs = c.ts := rfl
@[simp] theorem loadCandidate_valid (c : Candidate) (b : Block) : (b.loadCandidate c).valid = false := rfl
@[simp] theorem loadCandidate_checked (c : Candidate) (b : Block) : (b.loadCandidate c).checked = false := rfl
@[simp] theorem loadCandidate_syn (c : Candidate) (b : Block) : (b.loadCandidate c).syn = 0 := rfl
@[simp] theorem loadCandidate_ext (c : Candidate) (b : Block) : (b.loadCandidate c).ext = b.ext := rfl

/-! ### The demodulator (43_demod.md R195, R200) -/

@[simp] theorem setPosition_err (k : Nat) (b : Block) : (b.setPosition k).err = b.err := rfl
@[simp] theorem setPosition_errMore (k : Nat) (b : Block) : (b.setPosition k).errMore = b.errMore := rfl
@[simp] theorem setPosition_errCode (k : Nat) (b : Block) : (b.setPosition k).errCode = b.errCode := rfl
@[simp] theorem setPosition_errCmd (k : Nat) (b : Block) : (b.setPosition k).errCmd = b.errCmd := rfl
@[simp] theorem setPosition_crcR (k : Nat) (b : Block) : (b.setPosition k).crcR = b.crcR := rfl
@[simp] theorem setPosition_crcRes (k : Nat) (b : Block) : (b.setPosition k).crcRes = b.crcRes := rfl
@[simp] theorem setPosition_pendV (k : Nat) (b : Block) : (b.setPosition k).pendV = b.pendV := rfl
@[simp] theorem setPosition_pendS (k : Nat) (b : Block) : (b.setPosition k).pendS = b.pendS := rfl
@[simp] theorem setPosition_nIn (k : Nat) (b : Block) : (b.setPosition k).nIn = b.nIn := rfl
@[simp] theorem setPosition_ph (k : Nat) (b : Block) : (b.setPosition k).ph = b.ph := rfl
@[simp] theorem setPosition_kpos (k : Nat) (b : Block) : (b.setPosition k).kpos = BitVec.ofNat 64 k := rfl
@[simp] theorem setPosition_ended (k : Nat) (b : Block) : (b.setPosition k).ended = b.ended := rfl
@[simp] theorem setPosition_fifo (k : Nat) (b : Block) : (b.setPosition k).fifo = b.fifo := rfl
@[simp] theorem setPosition_ovf (k : Nat) (b : Block) : (b.setPosition k).ovf = b.ovf := rfl
@[simp] theorem setPosition_cntEmit (k : Nat) (b : Block) : (b.setPosition k).cntEmit = b.cntEmit := rfl
@[simp] theorem setPosition_cntDrop (k : Nat) (b : Block) : (b.setPosition k).cntDrop = b.cntDrop := rfl
@[simp] theorem setPosition_cntPre (k : Nat) (b : Block) : (b.setPosition k).cntPre = b.cntPre := rfl
@[simp] theorem setPosition_sb (k : Nat) (b : Block) : (b.setPosition k).sb = b.sb := rfl
@[simp] theorem setPosition_sbN (k : Nat) (b : Block) : (b.setPosition k).sbN = b.sbN := rfl
@[simp] theorem setPosition_sbTs (k : Nat) (b : Block) : (b.setPosition k).sbTs = b.sbTs := rfl
@[simp] theorem setPosition_valid (k : Nat) (b : Block) : (b.setPosition k).valid = b.valid := rfl
@[simp] theorem setPosition_checked (k : Nat) (b : Block) : (b.setPosition k).checked = b.checked := rfl
@[simp] theorem setPosition_syn (k : Nat) (b : Block) : (b.setPosition k).syn = b.syn := rfl
@[simp] theorem setPosition_ext (k : Nat) (b : Block) : (b.setPosition k).ext = b.ext := rfl

@[simp] theorem newStream_err (b : Block) : (b.newStream).err = b.err := rfl
@[simp] theorem newStream_errMore (b : Block) : (b.newStream).errMore = b.errMore := rfl
@[simp] theorem newStream_errCode (b : Block) : (b.newStream).errCode = b.errCode := rfl
@[simp] theorem newStream_errCmd (b : Block) : (b.newStream).errCmd = b.errCmd := rfl
@[simp] theorem newStream_crcR (b : Block) : (b.newStream).crcR = b.crcR := rfl
@[simp] theorem newStream_crcRes (b : Block) : (b.newStream).crcRes = b.crcRes := rfl
@[simp] theorem newStream_pendV (b : Block) : (b.newStream).pendV = false := rfl
@[simp] theorem newStream_pendS (b : Block) : (b.newStream).pendS = 0 := rfl
@[simp] theorem newStream_nIn (b : Block) : (b.newStream).nIn = 0 := rfl
@[simp] theorem newStream_ph (b : Block) : (b.newStream).ph = [] := rfl
@[simp] theorem newStream_kpos (b : Block) : (b.newStream).kpos = 0 := rfl
@[simp] theorem newStream_ended (b : Block) : (b.newStream).ended = false := rfl
@[simp] theorem newStream_fifo (b : Block) : (b.newStream).fifo = [] := rfl
@[simp] theorem newStream_ovf (b : Block) : (b.newStream).ovf = false := rfl
@[simp] theorem newStream_cntEmit (b : Block) : (b.newStream).cntEmit = 0 := rfl
@[simp] theorem newStream_cntDrop (b : Block) : (b.newStream).cntDrop = 0 := rfl
@[simp] theorem newStream_cntPre (b : Block) : (b.newStream).cntPre = 0 := rfl
@[simp] theorem newStream_sb (b : Block) : (b.newStream).sb = b.sb := rfl
@[simp] theorem newStream_sbN (b : Block) : (b.newStream).sbN = b.sbN := rfl
@[simp] theorem newStream_sbTs (b : Block) : (b.newStream).sbTs = b.sbTs := rfl
@[simp] theorem newStream_valid (b : Block) : (b.newStream).valid = b.valid := rfl
@[simp] theorem newStream_checked (b : Block) : (b.newStream).checked = b.checked := rfl
@[simp] theorem newStream_syn (b : Block) : (b.newStream).syn = b.syn := rfl
@[simp] theorem newStream_ext (b : Block) : (b.newStream).ext = b.ext := rfl

end Sys2Proof.Machine
end

