-- ==== Sys2Proof/Laws/Ops.lean ====
section
/-! SUPPORT. What each shared operation can do, said once. -/

namespace Sys2Proof.Machine

/-! ### The error record (60_exceptions.md R282) -/

theorem recordError_first (c : ErrorCode) (w : Word) (b : Block) (h : b.err = false) :
    b.recordError c w = { b with err := true, errCode := c.code, errCmd := w } := by
  simp [Block.recordError, h]

theorem recordError_later (c : ErrorCode) (w : Word) (b : Block) (h : b.err = true) :
    b.recordError c w = { b with errMore := true } := by
  simp [Block.recordError, h]

/-- After an error `err` is set, and nothing but the record has changed. -/
theorem recordError_cases (c : ErrorCode) (w : Word) (b : Block) :
    (b.err = false ∧ b.recordError c w = { b with err := true, errCode := c.code, errCmd := w }) ∨
    (b.err = true ∧ b.recordError c w = { b with errMore := true }) := by
  rcases Bool.eq_false_or_eq_true b.err with h | h
  · exact .inr ⟨h, recordError_later c w b h⟩
  · exact .inl ⟨h, recordError_first c w b h⟩

/-- The frame of an error: every element outside the record keeps its value (60_exceptions.md R284). -/
theorem recordError_frame (c : ErrorCode) (w : Word) (b : Block) :
    b.recordError c w =
      { b with err := (b.recordError c w).err, errMore := (b.recordError c w).errMore
               errCode := (b.recordError c w).errCode, errCmd := (b.recordError c w).errCmd } := by
  obtain ⟨-, h⟩ | ⟨-, h⟩ := recordError_cases c w b <;> rw [h]

@[simp] theorem recordError_err (c : ErrorCode) (w : Word) (b : Block) : (b.recordError c w).err = true := by
  obtain ⟨-, h⟩ | ⟨h', h⟩ := recordError_cases c w b
  · simp [h]
  · simp [h, h']

/-- No error code is reserved (60_exceptions.md R280). -/
theorem code_not_reserved (c : ErrorCode) : reservedCode c.code = false := by cases c <;> decide

/-- No error code is that of `E_NONE` (60_exceptions.md R280). -/
theorem code_ne_zero (c : ErrorCode) : c.code ≠ 0 := by cases c <;> decide

/-! ### Completion -/

/-- A command that completes answers a next state that differs in the block alone. -/
@[simp] theorem complete_eq (b : Block) (s : State) : complete b s = .next (s.setBlk b) := rfl

@[simp] theorem raiseError_eq (c : ErrorCode) (w : Word) (s : State) :
    raiseError c w s = .next (s.setBlk (s.blk.recordError c w)) := rfl

/-! ### Launch -/

/-- When a launch is accepted (00_scope.md R7, R8). -/
theorem launchRefusal_none_iff (s : State) :
    launchRefusal s = none ↔ s.masters ≤ 1 ∧ s.params.legal = true := by
  unfold launchRefusal
  by_cases h : 1 < s.masters
  · simp [h]
  · cases s.params.legal <;> simp [h]; omega

/-- The bounds that legal build parameters give (00_scope.md R8). -/
theorem legal_bounds {p : Params} (h : p.legal = true) :
    p.pPerUs % 2 = 0 ∧ 1 ≤ halfUs p ∧ halfUs p ≤ 127 ∧ p.pPerUs = 2 * halfUs p ∧
    1 ≤ p.preNum ∧ p.preNum ≤ 15 ∧ 1 ≤ p.preDen ∧ p.preDen ≤ 15 ∧ 1 ≤ p.fifoDepth ∧ p.fifoDepth ≤ 15 := by
  simp only [Params.legal, Bool.and_eq_true, decide_eq_true_eq] at h
  unfold halfUs
  omega

/-- The window of legal build parameters is 240 to 30480 power samples. -/
theorem window_bounds {p : Params} (h : p.legal = true) : 240 ≤ window p ∧ window p ≤ 30480 := by
  have := legal_bounds h
  unfold window
  omega

/-! ### The candidate FIFO -/

@[simp] theorem dequeue_nil : dequeue [] = none := rfl
@[simp] theorem dequeue_cons (e : Candidate) (q : List Candidate) : dequeue (e :: q) = some (e, q) := rfl

/-- A queue gives back its entries oldest first: what is enqueued leaves after what was there. -/
theorem dequeue_enqueue (e c : Candidate) (q : List Candidate) :
    dequeue (enqueue (e :: q) c) = some (e, enqueue q c) := rfl

/-! ### Bytes -/

/-- `be` of one more byte in front (00_scope.md R11). -/
theorem bigEndian_append (xs ys : List Byte) :
    bigEndian (xs ++ ys) = bigEndian xs * 256 ^ ys.length + bigEndian ys := by
  have key : ∀ (ys : List Byte) (a : Nat),
      ys.foldl (fun acc b => 256 * acc + b.toNat) a
        = a * 256 ^ ys.length + ys.foldl (fun acc b => 256 * acc + b.toNat) 0 := by
    intro ys
    induction ys with
    | nil => simp
    | cons y ys ih =>
      intro a
      rw [List.foldl_cons, ih, List.foldl_cons, ih (256 * 0 + y.toNat), List.length_cons]
      ring
  simp only [bigEndian, List.foldl_append]
  exact key ys _

/-- `be` of `n` bytes is below `256^n`. -/
theorem bigEndian_lt (xs : List Byte) : bigEndian xs < 256 ^ xs.length := by
  induction xs using List.reverseRecOn with
  | nil => simp [bigEndian]
  | append_singleton xs x ih =>
    rw [bigEndian_append]
    have hx : bigEndian [x] < 256 := by simpa [bigEndian] using x.isLt
    simp only [List.length_append, List.length_singleton, pow_add, pow_one]
    nlinarith

/-- A range of the buffer has as many bytes as it is wide. -/
theorem byteRange_length (sb : Vector Byte 14) (lo hi : Nat) (h : hi ≤ 14) :
    (byteRange sb lo hi).length = hi - lo := by
  simp [byteRange]
  omega

/-! ### The CRC-24 functions -/

@[simp] theorem feed_nil (r : Bits24) : feed r [] = r := rfl
@[simp] theorem feed_cons (r : Bits24) (b : Bool) (bits : List Bool) :
    feed r (b :: bits) = feed (crcStep r b) bits := rfl

/-- Feeding a sequence is feeding its parts in order (42_crc24.md R152). -/
theorem feed_append (r : Bits24) (xs ys : List Bool) : feed r (xs ++ ys) = feed (feed r xs) ys := by
  simp [feed]

/-- Bytes are fed one after another (42_crc24.md R152). -/
theorem feed_bitsOfBytes_cons (r : Bits24) (v : Byte) (vs : List Byte) :
    feed r (bitsOfBytes (v :: vs)) = feed (feedByte r v) (bitsOfBytes vs) := by
  simp [bitsOfBytes, feed_append, feedByte]

/-- One bit step is linear in the register and the bit (42_crc24.md R151). -/
theorem crcStep_xor (r r' : Bits24) (b b' : Bool) :
    crcStep (r ^^^ r') (b ^^ b') = crcStep r b ^^^ crcStep r' b' := by
  have hg : ∀ x y : Bits24, (x.setWidth 23 ^^^ y.setWidth 23) = (x ^^^ y).setWidth 23 := by
    intro x y
    exact (BitVec.setWidth_xor).symm
  have hc : ∀ (x y : BitVec 23) (c d : Bool), (x ^^^ y).concat (c ^^ d) = x.concat c ^^^ y.concat d := by
    intro x y c d
    exact (BitVec.concat_xor_concat ..).symm
  have ht : ((r ^^^ r').setWidth 23).concat (b ^^ b')
      = (r.setWidth 23).concat b ^^^ (r'.setWidth 23).concat b' := by
    rw [← hg, hc]
  unfold crcStep
  simp only [ht, BitVec.getLsbD_xor]
  generalize (r.setWidth 23).concat b = x
  generalize (r'.setWidth 23).concat b' = y
  apply BitVec.eq_of_getLsbD_eq
  intro i _
  cases r.getLsbD 23 <;> cases r'.getLsbD 23 <;> simp <;>
    cases x.getLsbD i <;> cases y.getLsbD i <;> cases generator.getLsbD i <;> rfl

/-- Feeding is linear in the register and the bits (42_crc24.md R152). -/
theorem feed_xor (xs ys : List Bool) (h : xs.length = ys.length) (r r' : Bits24) :
    feed (r ^^^ r') (List.zipWith (· ^^ ·) xs ys) = feed r xs ^^^ feed r' ys := by
  induction xs generalizing ys r r' with
  | nil => cases ys with
    | nil => rfl
    | cons => simp at h
  | cons x xs ih => cases ys with
    | nil => simp at h
    | cons y ys =>
      simp only [List.zipWith_cons_cons, feed_cons, crcStep_xor]
      exact ih ys (by simpa using h) _ _

/-- A zero register stays zero on zero bits (42_crc24.md R161). -/
theorem feed_zeros (n : Nat) : feed 0 (List.replicate n false) = 0 := by
  induction n with
  | zero => rfl
  | succ n ih =>
    rw [List.replicate_succ, feed_cons]
    exact ih

end Sys2Proof.Machine
end

