-- ==== Sys2Proof/Laws/Demod.lean ====
section
/-! SUPPORT. What each operation of the demodulator can do, said once (43_demod.md). -/

namespace Sys2Proof.Machine

/-! ### Samples -/

/-- The recentred sample as a number (43_demod.md R183). -/
theorem recentre_toInt (raw : BitVec 12) : (recentre raw).toInt = (raw.toNat : Int) - 2048 := by
  have h := raw.isLt
  rw [recentre, BitVec.toInt_ofInt, recentreOffset]
  apply Int.bmod_eq_of_le <;> omega

/-- A recentred sample lies in [-2048, 2047] (43_demod.md R183). -/
theorem sample_bounds (s : BitVec 12) : -2048 ≤ s.toInt ∧ s.toInt ≤ 2047 := by
  have h1 := BitVec.le_toInt (x := s)
  have h2 := BitVec.toInt_lt (x := s)
  norm_num at h1 h2
  omega

/-! ### The FIFO (43_demod.md R197) -/

theorem fifoPut_room {p : Params} {e : Candidate} {b : Block} (h : b.fifo.length < p.fifoDepth) :
    fifoPut p e b = { b with fifo := b.fifo ++ [e], cntEmit := b.cntEmit + 1 } := by
  simp [fifoPut, enqueue, h]

theorem fifoPut_full {p : Params} {e : Candidate} {b : Block} (h : ¬ b.fifo.length < p.fifoDepth) :
    fifoPut p e b = { b with cntDrop := b.cntDrop + 1, ovf := true } := by
  simp [fifoPut, h]

/-- The frame of `fifo_put`: the queue, two counters and `ovf` aside, nothing changes. -/
theorem fifoPut_frame (p : Params) (e : Candidate) (b : Block) :
    fifoPut p e b =
      { b with fifo := (fifoPut p e b).fifo, cntEmit := (fifoPut p e b).cntEmit
               cntDrop := (fifoPut p e b).cntDrop, ovf := (fifoPut p e b).ovf } := by
  by_cases h : b.fifo.length < p.fifoDepth
  · rw [fifoPut_room h]
  · rw [fifoPut_full h]

/-! ### One position (43_demod.md R195, R196) -/

/-- The next position is always beyond this one. -/
theorem resumePosition_gt {p : Params} (hp : p.legal = true) (k : Nat) :
    k < resumePosition p k ∧ resumePosition p k ≤ k + window p := by
  have := window_bounds hp
  unfold resumePosition
  cases p.resume <;> simp <;> omega

/-- Everything trying a position can do: no match, a match of length 0, or a match of length 14. -/
theorem tryPosition_cases (p : Params) (k : Nat) (b : Block) :
    (preambleMatch p b.ph k = false ∧ tryPosition p k b = b.setPosition (k + 1)) ∨
    (preambleMatch p b.ph k = true ∧ frameSize (frameByte p b.ph k 0) = 0 ∧
      tryPosition p k b = { b with cntPre := b.cntPre + 1 }.setPosition (k + 1)) ∨
    (preambleMatch p b.ph k = true ∧ frameSize (frameByte p b.ph k 0) = 14 ∧
      tryPosition p k b = emit p k { b with cntPre := b.cntPre + 1 }) := by
  unfold tryPosition
  cases hm : preambleMatch p b.ph k
  · exact .inl ⟨rfl, rfl⟩
  · right
    by_cases h0 : frameSize (frameByte p b.ph k 0) = 0
    · exact .inl ⟨rfl, h0, by simp [h0]⟩
    · refine .inr ⟨rfl, ?_, by simp [h0]⟩
      unfold frameSize frameLength at h0 ⊢
      split at h0
      · next h => rw [if_pos h]
      · exact absurd rfl h0

/-- Trying a position leaves the power history and everything outside the search alone. -/
theorem tryPosition_frame (p : Params) (k : Nat) (b : Block) :
    tryPosition p k b =
      { b with kpos := (tryPosition p k b).kpos, fifo := (tryPosition p k b).fifo, ovf := (tryPosition p k b).ovf
               cntPre := (tryPosition p k b).cntPre, cntEmit := (tryPosition p k b).cntEmit
               cntDrop := (tryPosition p k b).cntDrop } := by
  obtain ⟨-, h⟩ | ⟨-, -, h⟩ | ⟨-, -, h⟩ := tryPosition_cases p k b
  · rw [h]; rfl
  · rw [h]; rfl
  · rw [h, emit, fifoPut_frame]; rfl

@[simp] theorem tryPosition_ph (p : Params) (k : Nat) (b : Block) : (tryPosition p k b).ph = b.ph := by
  rw [tryPosition_frame]

/-- Where the search stands after a position was tried. -/
theorem tryPosition_kpos (p : Params) (k : Nat) (b : Block) :
    (tryPosition p k b).kpos = BitVec.ofNat 64 (k + 1) ∨
    (tryPosition p k b).kpos = BitVec.ofNat 64 (resumePosition p k) := by
  obtain ⟨-, h⟩ | ⟨-, -, h⟩ | ⟨-, -, h⟩ := tryPosition_cases p k b
  · exact .inl (by rw [h]; rfl)
  · exact .inl (by rw [h]; rfl)
  · exact .inr (by rw [h]; rfl)

/-! ### The loop (43_demod.md R190) -/

@[simp] theorem tryLoop_zero (p : Params) (b : Block) : tryLoop p 0 b = b := rfl

theorem tryLoop_incomplete {p : Params} {b : Block} (n : Nat) (h : b.ph.length < b.kpos.toNat + window p) :
    tryLoop p n b = b := by
  cases n with
  | zero => rfl
  | succ n => simp [tryLoop, windowComplete, Nat.not_le.mpr h]

theorem tryLoop_complete {p : Params} {b : Block} (n : Nat) (h : b.kpos.toNat + window p ≤ b.ph.length) :
    tryLoop p (n + 1) b = tryLoop p n (tryPosition p b.kpos.toNat b) := by
  simp [tryLoop, windowComplete, h]

theorem tryPositions_incomplete {p : Params} {b : Block} (h : b.ph.length < b.kpos.toNat + window p) :
    tryPositions p b = b := tryLoop_incomplete _ h

/-- A property that every try keeps is kept by the loop. -/
theorem tryLoop_induct {p : Params} {Q : Block → Prop}
    (hQ : ∀ b, Q b → b.kpos.toNat + window p ≤ b.ph.length → Q (tryPosition p b.kpos.toNat b)) :
    ∀ n b, Q b → Q (tryLoop p n b)
  | 0, _, h => h
  | n + 1, b, h => by
    by_cases hc : b.kpos.toNat + window p ≤ b.ph.length
    · rw [tryLoop_complete n hc]
      exact tryLoop_induct hQ n _ (hQ b h hc)
    · rwa [tryLoop_incomplete _ (by omega)]

/-- The frame of the search: only what `tryPosition` may change differs. -/
theorem tryPositions_frame (p : Params) (b : Block) :
    tryPositions p b =
      { b with kpos := (tryPositions p b).kpos, fifo := (tryPositions p b).fifo, ovf := (tryPositions p b).ovf
               cntPre := (tryPositions p b).cntPre, cntEmit := (tryPositions p b).cntEmit
               cntDrop := (tryPositions p b).cntDrop } := by
  refine tryLoop_induct (Q := fun b' =>
    b' = { b with kpos := b'.kpos, fifo := b'.fifo, ovf := b'.ovf
                  cntPre := b'.cntPre, cntEmit := b'.cntEmit, cntDrop := b'.cntDrop }) ?_ _ b rfl
  intro b' h _
  rw [tryPosition_frame p b'.kpos.toNat b']
  rw [h]

/-! ### Accepting a sample (43_demod.md R184, R186, R187) -/

theorem acceptSample_odd {p : Params} {raw : BitVec 12} {b : Block} (h : b.pendV = false) :
    acceptSample p raw b = { b with nIn := b.nIn + 1, pendS := recentre raw, pendV := true } := by
  simp [acceptSample, h]

theorem acceptSample_even {p : Params} {raw : BitVec 12} {b : Block} (h : b.pendV = true) :
    acceptSample p raw b =
      tryPositions p { b with nIn := b.nIn + 1, ph := b.ph ++ [power b.pendS (recentre raw)], pendV := false } := by
  simp [acceptSample, h]

/-- The frame of an accepted sample: nothing outside the demodulator changes. -/
theorem acceptSample_frame (p : Params) (raw : BitVec 12) (b : Block) :
    acceptSample p raw b =
      { b with
        nIn := b.nIn + 1, pendV := !b.pendV, pendS := (acceptSample p raw b).pendS
        ph := (acceptSample p raw b).ph, kpos := (acceptSample p raw b).kpos
        fifo := (acceptSample p raw b).fifo, ovf := (acceptSample p raw b).ovf
        cntPre := (acceptSample p raw b).cntPre, cntEmit := (acceptSample p raw b).cntEmit
        cntDrop := (acceptSample p raw b).cntDrop } := by
  rcases Bool.eq_false_or_eq_true b.pendV with h | h
  · rw [acceptSample_even h, tryPositions_frame, h]
    rfl
  · rw [acceptSample_odd h, h]
    rfl

end Sys2Proof.Machine
end

