-- ==== Sys2Proof/Laws/Exec.lean ====
section
/-! SUPPORT. What `exec`, a bus write and `step` can do, said once. -/

namespace Sys2Proof.Machine

/-- Every command answers a next state, and that state differs from the old one in the block alone. -/
theorem exec_next (i : Instr) (s : State) : ∃ b, exec i s = .next (s.setBlk b) := by
  cases i with
  | nop => exact ⟨s.blk, rfl⟩
  | errClear => exact ⟨_, rfl⟩
  | softReset => exact ⟨_, rfl⟩
  | crcInit => exact ⟨_, rfl⟩
  | crcBit b => exact ⟨_, rfl⟩
  | crcByte byte => exact ⟨_, rfl⟩
  | crcFinal => exact ⟨_, rfl⟩
  | sample raw => show ∃ b, execSample raw s = _; unfold execSample; split <;> exact ⟨_, rfl⟩
  | eos => show ∃ b, execEos s = _; unfold execEos; split <;> exact ⟨_, rfl⟩
  | demodReset => exact ⟨_, rfl⟩
  | sliceClear => exact ⟨_, rfl⟩
  | slicePush byte => show ∃ b, execSlicePush byte s = _; unfold execSlicePush; split <;> exact ⟨_, rfl⟩
  | sliceTs16 imm16 => exact ⟨_, rfl⟩
  | sliceCommit =>
    show ∃ b, execSliceCommit s = _
    unfold execSliceCommit
    split
    · exact ⟨_, rfl⟩
    · split <;> exact ⟨_, rfl⟩
  | slicePop => show ∃ b, execSlicePop s = _; unfold execSlicePop; split <;> exact ⟨_, rfl⟩
  | byteAt idx => show ∃ b, execByteAt idx s = _; unfold execByteAt; split <;> exact ⟨_, rfl⟩
  | extract lo hi =>
    show ∃ b, execExtract lo hi s = _
    unfold execExtract
    split
    · exact ⟨_, rfl⟩
    · split <;> exact ⟨_, rfl⟩

/-- A command word, legal or not, answers a next state that differs in the block alone. -/
theorem executeCommand_next (w : Word) (s : State) : ∃ b, executeCommand w s = .next (s.setBlk b) := by
  unfold executeCommand
  split
  · exact exec_next _ s
  · exact ⟨_, rfl⟩

/-- What a turn does with an event: nothing pending, a command word, an ignored write, a read, or power-on reset. -/
theorem turn_cases (s : State) :
    (s.pending = [] ∧ turn s = .next s) ∨
    (∃ w rest, s.pending = .busWrite 0 w :: rest ∧ turn s = executeCommand w { s with pending := rest }) ∨
    (∃ widx v rest, widx ≠ 0 ∧ s.pending = .busWrite widx v :: rest ∧ turn s = .next { s with pending := rest }) ∨
    (∃ widx rest, s.pending = .busRead widx :: rest ∧
      turn s = .next { s with pending := rest, rdata := s.rdata ++ [busRead widx s] }) ∨
    (∃ rest, s.pending = .powerOnReset :: rest ∧
      turn s = .next (({ s with pending := rest } : State).setBlk Block.reset)) := by
  rcases hs : s.pending with _ | ⟨e, rest⟩
  · exact .inl ⟨rfl, by simp [turn, present, hs]⟩
  · right
    cases e with
    | busWrite widx v =>
      by_cases hw : widx = 0
      · subst hw
        exact .inl ⟨v, rest, rfl, by simp [turn, present, hs, perform, busWrite]⟩
      · exact .inr (.inl ⟨widx, v, rest, hw, rfl, by
        simp only [turn, present, hs, perform, busWrite, if_neg hw]⟩)
    | busRead widx =>
      exact .inr (.inr (.inl ⟨widx, rest, rfl, by simp [turn, present, hs, perform, busRead]⟩))
    | powerOnReset => exact .inr (.inr (.inr ⟨rest, rfl, by simp [turn, present, hs, perform]⟩))

/-- From an accepted state a step is a turn. -/
theorem step_of_accepted {s : State} (h : s.Accepted) : step s = turn s := by
  have hl := (launchRefusal_none_iff s).mpr ⟨h.oneMaster, h.legalParams⟩
  simp [step, hl, h.codeNotReserved]

/-- A step that answers a next state was taken from an accepted state. -/
theorem accepted_of_step {s t : State} (h : step s = .next t) : s.Accepted ∧ turn s = .next t := by
  unfold step at h
  split at h
  · cases h
  · next hl =>
    obtain ⟨hm, hp⟩ := (launchRefusal_none_iff s).mp hl
    split at h
    · cases h
    · next hc => exact ⟨⟨hm, hp, by simpa using hc⟩, h⟩

/-- An invariant of the machine: what every command, every illegal word and power-on reset keep, every step keeps.
The host's own fields and the launch are not the block's. -/
theorem step_keeps {Q : Params → Block → Prop} {s t : State} (hs : step s = .next t) (h : Q s.params s.blk)
    (hexec : ∀ i s' b, s'.params = s.params → s'.blk = s.blk → exec i s' = .next (s'.setBlk b) → Q s.params b)
    (hillegal : ∀ w, Q s.params (s.blk.recordError .illegal w))
    (hreset : Q s.params Block.reset) : Q t.params t.blk := by
  obtain ⟨-, ht⟩ := accepted_of_step hs
  obtain ⟨-, h'⟩ | ⟨w, rest, -, h'⟩ | ⟨_, _, _, -, -, h'⟩ | ⟨_, _, -, h'⟩ | ⟨_, -, h'⟩ := turn_cases s <;>
    rw [h'] at ht
  · cases ht; exact h
  · unfold executeCommand at ht
    split at ht
    · next i _ =>
      obtain ⟨b, hb⟩ := exec_next i { s with pending := rest }
      rw [hb] at ht
      cases ht
      exact hexec i { s with pending := rest } b rfl rfl hb
    · cases ht; exact hillegal w
  · cases ht; exact h
  · cases ht; exact h
  · cases ht; exact hreset

end Sys2Proof.Machine
end

