-- ==== Sys2Proof/Laws/PerInstr.lean ====
section
/-! SUPPORT. Family EncodesRow: the word of a command selects the command's own row, and the row reads the command's
operands back from it (30_encoding.md R91, R93). One lemma per constructor. -/

namespace Sys2Proof.Laws.EncodesRow

/-- The word of `i` selects the row of `i`, and that row builds `i` from it. -/
def Statement (i : Instr) : Prop :=
  i.mnemonic.selects (encode i) = true ∧ i.mnemonic.build (encode i) = i

/-- A word of an opcode and operand bits selects a row when both halves fit it. -/
theorem selects_of_halves (m : Mnemonic) (opc : BitVec 8) (ops maskLow : BitVec 24)
    (hm : m.mask = 0xFF#8 ++ maskLow) (ho : opc = m.opcode) (hx : ops &&& maskLow = 0#24) :
    m.selects (opc ++ ops) = true := by
  have h8 : (0xFF#8) = BitVec.allOnes 8 := by decide
  rw [Mnemonic.selects, hm, matchWord_eq, ho, BitVec.and_append, hx, h8, BitVec.and_allOnes, beq_self_eq_true]

/-- A field below bit 24 is a field of the operand bits. -/
theorem field_of_low (opc : BitVec 8) (ops : BitVec 24) (lsb n : Nat) (h : lsb + n ≤ 24) :
    (opc ++ ops).extractLsb' lsb n = ops.extractLsb' lsb n := by
  apply BitVec.eq_of_getLsbD_eq
  intro i hi
  have hlt : lsb + i < 24 := by omega
  rw [BitVec.getLsbD_extractLsb', BitVec.getLsbD_extractLsb', BitVec.getLsbD_append, if_pos hlt]

/-- Reserved bits above an operand, masked, are 0; so is the operand under the mask's own 0 bits. -/
theorem reserved_zero {a b : Nat} (hi : BitVec a) (x : BitVec b) :
    (0#a ++ x) &&& (hi ++ 0#b) = 0#a ++ 0#b := by
  rw [BitVec.and_append, BitVec.zero_and, BitVec.and_zero]

theorem nop : Statement .nop := ⟨by decide, rfl⟩
theorem errClear : Statement .errClear := ⟨by decide, rfl⟩
theorem softReset : Statement .softReset := ⟨by decide, rfl⟩
theorem crcInit : Statement .crcInit := ⟨by decide, rfl⟩

theorem crcBit (b : BitVec 1) : Statement (.crcBit b) := by
  refine ⟨selects_of_halves .crcBit _ (0#23 ++ b) 0xFFFFFE rfl rfl (reserved_zero 0x7FFFFF#23 b), ?_⟩
  show Instr.crcBit _ = _
  rw [encode, field_of_low _ _ _ _ (by decide)]
  exact congrArg _ BitVec.extractLsb'_append_eq_right

theorem crcByte (byte : Byte) : Statement (.crcByte byte) := by
  refine ⟨selects_of_halves .crcByte _ (0#16 ++ byte) 0xFFFF00 rfl rfl (reserved_zero 0xFFFF#16 byte), ?_⟩
  show Instr.crcByte _ = _
  rw [encode, field_of_low _ _ _ _ (by decide)]
  exact congrArg _ BitVec.extractLsb'_append_eq_right

theorem crcFinal : Statement .crcFinal := ⟨by decide, rfl⟩

theorem sample (raw : BitVec 12) : Statement (.sample raw) := by
  refine ⟨selects_of_halves .sample _ (0#12 ++ raw) 0xFFF000 rfl rfl (reserved_zero 0xFFF#12 raw), ?_⟩
  show Instr.sample _ = _
  rw [encode, field_of_low _ _ _ _ (by decide)]
  exact congrArg _ BitVec.extractLsb'_append_eq_right

theorem eos : Statement .eos := ⟨by decide, rfl⟩
theorem demodReset : Statement .demodReset := ⟨by decide, rfl⟩
theorem sliceClear : Statement .sliceClear := ⟨by decide, rfl⟩

theorem slicePush (byte : Byte) : Statement (.slicePush byte) := by
  refine ⟨selects_of_halves .slicePush _ (0#16 ++ byte) 0xFFFF00 rfl rfl (reserved_zero 0xFFFF#16 byte), ?_⟩
  show Instr.slicePush _ = _
  rw [encode, field_of_low _ _ _ _ (by decide)]
  exact congrArg _ BitVec.extractLsb'_append_eq_right

theorem sliceTs16 (imm16 : BitVec 16) : Statement (.sliceTs16 imm16) := by
  refine ⟨selects_of_halves .sliceTs16 _ (0#8 ++ imm16) 0xFF0000 rfl rfl (reserved_zero 0xFF#8 imm16), ?_⟩
  show Instr.sliceTs16 _ = _
  rw [encode, field_of_low _ _ _ _ (by decide)]
  exact congrArg _ BitVec.extractLsb'_append_eq_right

theorem sliceCommit : Statement .sliceCommit := ⟨by decide, rfl⟩
theorem slicePop : Statement .slicePop := ⟨by decide, rfl⟩

theorem byteAt (idx : BitVec 4) : Statement (.byteAt idx) := by
  refine ⟨selects_of_halves .byteAt _ (0#20 ++ idx) 0xFFFFF0 rfl rfl (reserved_zero 0xFFFFF#20 idx), ?_⟩
  show Instr.byteAt _ = _
  rw [encode, field_of_low _ _ _ _ (by decide)]
  exact congrArg _ BitVec.extractLsb'_append_eq_right

theorem extract (lo hi : BitVec 4) : Statement (.extract lo hi) := by
  revert lo hi
  unfold Statement
  decide

end Sys2Proof.Laws.EncodesRow
end

