-- ==== Sys2Proof/Tests/Slice0.lean ====
section
/-! SUPPORT. The model's own tests. Expected values are the spec's (section and row of 95_test_vectors.md or rule in each
comment), and for every statement with hypotheses there is a witness that meets them. -/

namespace Sys2Proof.Tests

open Sys2Proof.Machine

/-! ### Helpers -/

/-- The machine after reset but for this block state. -/
def machine (b : Block) : State := { State.reset with blk := b }

/-- The block of a next state. -/
def blockOf : Host.Outcome State Fault Refusal → Option Block
  | .next t => some t.blk
  | .fault _ => none
  | .refused _ => none

/-- A register of a next state. -/
def readAfter (widx : WordIndex) : Host.Outcome State Fault Refusal → Option Word
  | .next t => some (busRead widx t)
  | .fault _ => none
  | .refused _ => none

/-- Frame 1 of 95 section 1.1. -/
def frame1 : Vector Byte 14 := #v[0x8D, 0x4B, 0x17, 0xE5, 0xF8, 0x21, 0x00, 0x02, 0x00, 0x4B, 0xB8, 0xB1, 0xF1, 0xAC]

/-- The block after `LOAD_FRAME` of frame 1 (95 section 2.2). -/
def loaded : Block := { Block.reset with sb := frame1, sbN := 14 }

/-- The block after SLICE_COMMIT of frame 1 (95 section 2.3, RF1). -/
def committed : Block := { loaded with valid := true, checked := true }

/-- A build with one power sample in each half-bit, so that windows are short (W = 240). -/
def smallBuild : Params := { pPerUs := 2, preNum := 2, preDen := 1, fifoDepth := 1, resume := .skipFrame }

/-! ### Decoding (30_encoding.md R93, R99; 95 section 2.5), each word written out from the formats of R91 -/

theorem test_decode_control :
    decode 0b00000000000000000000000000000000#32 = .command .nop ∧
    decode 0b00000001000000000000000000000000#32 = .command .errClear ∧
    decode 0b00000010000000000000000000000000#32 = .command .softReset := by decide

theorem test_decode_crc :
    decode 0b00010000000000000000000000000000#32 = .command .crcInit ∧
    decode 0b00010001000000000000000000000001#32 = .command (.crcBit 1) ∧
    decode 0b00010010000000000000000010001101#32 = .command (.crcByte 0x8D) ∧
    decode 0b00010011000000000000000000000000#32 = .command .crcFinal := by decide

theorem test_decode_demod :
    decode 0b00100000000000000000101111101000#32 = .command (.sample 3048) ∧
    decode 0b00100000000000000000111111111111#32 = .command (.sample 4095) ∧
    decode 0b00100001000000000000000000000000#32 = .command .eos ∧
    decode 0b00100010000000000000000000000000#32 = .command .demodReset := by decide

theorem test_decode_slice_buffer :
    decode 0b00110000000000000000000000000000#32 = .command .sliceClear ∧
    decode 0b00110001000000000000000011100101#32 = .command (.slicePush 0xE5) ∧
    decode 0b00110010000000000001001000110100#32 = .command (.sliceTs16 0x1234) ∧
    decode 0b00111000000000000000000000001101#32 = .command (.byteAt 13) ∧
    decode 0b00111001000000000000000001000001#32 = .command (.extract 1 4) ∧
    decode 0b00111001000000000000000010110100#32 = .command (.extract 4 11) := by decide

theorem test_decode_raw_frame :
    decode 0b00110011000000000000000000000000#32 = .command .sliceCommit ∧
    decode 0b00110100000000000000000000000000#32 = .command .slicePop := by decide

/-- E1 to E5: reserved bits and reserved opcodes. -/
theorem test_decode_illegal :
    decode 0x12000100 = .illegal .reservedBitSet ∧ decode 0x14000000 = .illegal .reservedOpcode ∧
    decode 0xFFFFFFFF = .illegal .reservedOpcode ∧ decode 0x00000001 = .illegal .reservedBitSet ∧
    decode 0x38000010 = .illegal .reservedBitSet ∧ decode 0x11000002 = .illegal .reservedBitSet ∧
    decode 0x20001000 = .illegal .reservedBitSet ∧ decode 0x32010000 = .illegal .reservedBitSet ∧
    decode 0x39000100 = .illegal .reservedBitSet ∧ decode 0x31000100 = .illegal .reservedBitSet := by decide

/-- The encodings of 95 section 2.5. -/
theorem test_encode :
    encode (.sample 2048) = 0x20000800 ∧ encode (.extract 4 5) = 0x39000054 ∧ encode (.extract 0 8) = 0x39000080 ∧
    encode (.extract 3 2) = 0x39000023 ∧ encode (.byteAt 14) = 0x3800000E ∧ encode (.sliceTs16 0x86A0) = 0x320086A0 ∧
    encode (.crcBit 0) = 0x11000000 := by decide

theorem test_decode_table_word :
    decodeTableWord 32 0x390000B4 = some (.extract 4 11) ∧ decodeTableWord 32 0x14000000 = none ∧
    decodeTableWord 64 0 = none := by decide

/-! ### WellFormed: an ill-formed term for each check -/

theorem test_legal_reference : Params.reference.legal = true ∧ smallBuild.legal = true := by decide

theorem test_legal_refuses :
    ({ Params.reference with pPerUs := 9 } : Params).legal = false ∧
    ({ Params.reference with pPerUs := 0 } : Params).legal = false ∧
    ({ Params.reference with pPerUs := 256 } : Params).legal = false ∧
    ({ Params.reference with preNum := 0 } : Params).legal = false ∧
    ({ Params.reference with preNum := 16 } : Params).legal = false ∧
    ({ Params.reference with preDen := 0 } : Params).legal = false ∧
    ({ Params.reference with preDen := 16 } : Params).legal = false ∧
    ({ Params.reference with fifoDepth := 0 } : Params).legal = false ∧
    ({ Params.reference with fifoDepth := 16 } : Params).legal = false := by decide

theorem test_line_refuses :
    (AsmLine.command .crcBit [2]).wf = false ∧ (AsmLine.command .crcByte [256]).wf = false ∧
    (AsmLine.command .slicePush [256]).wf = false ∧ (AsmLine.command .sliceTs16 [65536]).wf = false ∧
    (AsmLine.command .sample [4096]).wf = false ∧ (AsmLine.command .byteAt [16]).wf = false ∧
    (AsmLine.command .extract [1, 16]).wf = false ∧ (AsmLine.command .extract [16, 1]).wf = false ∧
    (AsmLine.command .extract [1]).wf = false ∧ (AsmLine.command .nop [0]).wf = false ∧
    (AsmLine.command .sample []).wf = false := by decide

theorem test_pseudo_refuses :
    (AsmLine.loadFrame [0x8D, 0x4B]).wf = false ∧
    (AsmLine.loadFrame [256, 0, 0, 0, 0, 0, 0, 0, 0, 0, 0, 0, 0, 0]).wf = false ∧
    (AsmLine.setTs (2 ^ 64)).wf = false ∧ (AsmLine.crcBytes [256]).wf = false ∧ (AsmLine.crcOf [256]).wf = false ∧
    (AsmLine.samples 4096 1).wf = false := by decide

theorem test_line_accepts :
    (AsmLine.command .extract [15, 15]).wf = true ∧ (AsmLine.command .sample [4095]).wf = true ∧
    (AsmLine.read .status).wf = true ∧ AsmLine.recv.wf = true ∧ (AsmLine.setTs (2 ^ 64 - 1)).wf = true := by decide

/-! ### The assembler (30_encoding.md R97, R98) -/

theorem test_assemble_operands :
    assembleText " EXTRACT 4, 11 ; the payload".toList = some [.busWrite 0 0x390000B4] ∧
    assembleText "SLICE_PUSH 0xE5".toList = some [.busWrite 0 0x310000E5] ∧
    assembleText "SLICE_PUSH 0xe5".toList = some [.busWrite 0 0x310000E5] ∧
    assembleText "read SLICE_ICAO".toList = some [.busRead 7] ∧
    assembleText "; only a comment".toList = some [] := by decide

theorem test_assemble_refuses :
    assembleText "CRC_BYTE 256".toList = none ∧ assembleText "EXTRACT 4".toList = none ∧
    assembleText "FROB 1".toList = none ∧ assembleText "read FROB".toList = none ∧
    assembleText "SLICE_PUSH 0x".toList = none ∧ assembleText "SLICE_PUSH 0xG1".toList = none ∧
    assembleText "SLICE_PUSH A1".toList = none := by decide

/-- R98, with the words of program P2. -/
theorem test_assemble_pseudo :
    assembleProgram ["SET_TS 100000".toList, "RECV".toList, "SAMPLES 2048, 2".toList, "CRC_OF 8D".toList] =
      some [.busWrite 0 0x32000000, .busWrite 0 0x32000000, .busWrite 0 0x32000001, .busWrite 0 0x320086A0,
            .busWrite 0 0x34000000, .busWrite 0 0x33000000, .busWrite 0 0x20000800, .busWrite 0 0x20000800,
            .busWrite 0 0x10000000, .busWrite 0 0x1200008D, .busWrite 0 0x13000000] := by decide

theorem test_assemble_load_frame :
    (assembleText "LOAD_FRAME 8D4B17E5F8210002004BB8B1F1AC".toList).map List.length = some 15 ∧
    assembleText "LOAD_FRAME 8D4B17".toList = none := by decide

/-- 95 section 1.7: the host's unpacking, and the block's recentring. -/
theorem test_normalizer :
    (hostRawSample 0x02 0x00 = 2 ∧ hostRawSample 0xE8 0x0B = 3048) ∧
    (recentre 0).toInt = -2048 ∧ (recentre 1).toInt = -2047 ∧ (recentre 2).toInt = -2046 := by decide

/-! ### The step -/

/-- R7: two bus masters. -/
theorem test_step_refuses_two_masters : step { State.reset with masters := 2 } = .refused .moreThanOneMaster := rfl

/-- Log 5: an odd `P_PER_US`. -/
theorem test_step_refuses_illegal_parameters :
    step { State.reset with params := { Params.reference with pPerUs := 9 } } = .refused .illegalParameters := rfl

/-- I11: a reserved error code. -/
theorem test_step_stuck :
    step (machine { Block.reset with err := true, errCode := 10 }) = .fault .reservedErrorCode ∧
    step (machine { Block.reset with err := true, errCode := 15 }) = .fault .reservedErrorCode := ⟨rfl, rfl⟩

/-- The word placed is the one the next step runs: CRC_BIT 1 (K13). -/
theorem test_fetch_word : readAfter 3 (step (State.reset.withFetchWord 32 0x11000001)) = some 0x000001 := by decide

/-- E10: a write to STATUS is ignored. -/
theorem test_write_status_ignored :
    step { State.reset with pending := [.busWrite 1 0xFFFFFFFF] } = .next State.reset := rfl

/-- E11: reads of offset 0x74 and of CMD. -/
theorem test_read_unmapped :
    (core.run 2 { State.reset with pending := [.busRead 29, .busRead 0] }) =
      .next { State.reset with rdata := [0, 0] } := rfl

/-- R310: power-on reset from a state with a frame loaded. -/
theorem test_power_on_reset :
    step { machine committed with pending := [.powerOnReset] } = .next State.reset := rfl

/-- E1 and E7: an illegal word, and a second error. -/
theorem test_errors_recorded :
    readAfter 1 (executeCommand 0x12000100 State.reset) = some 0x00000011 ∧
    readAfter 2 (executeCommand 0x12000100 State.reset) = some 0x12000100 ∧
    readAfter 1 (executeCommand 0x33000000 (machine (Block.reset.recordError .illegal 0x14000000))) = some 0x00000013 := by
  decide

/-! ### Control (95 section 2.5) -/

/-- E6. -/
theorem test_nop : executeCommand 0x00000000 (machine committed) = .next (machine committed) := rfl

/-- E8, and that the overflow flag goes too (45_control.md R271). -/
theorem test_err_clear :
    readAfter 1 (exec .errClear (machine { Block.reset with err := true, errMore := true, errCode := 1, ovf := true })) =
      some 0 := by decide

/-- E9. -/
theorem test_soft_reset :
    readAfter 1 (exec .softReset (machine { committed with crcR := 1 })) = some 0 ∧
    readAfter 28 (exec .softReset (machine { committed with crcR := 1 })) = some 0x0012020A := by decide

/-! ### The CRC unit (95 section 2.1) -/

theorem test_crc_step :
    crcStep 0x800000 false = 0xFFF409 ∧ crcStep 0x800000 true = 0xFFF408 ∧ crcStep 0x7FFFFF true = 0xFFFFFF ∧
    crcStep 0xFFFFFF false = 0x000BF7 := by decide

/-- K16. -/
theorem test_crc_init :
    readAfter 3 (exec .crcInit (machine { Block.reset with crcR := 0x8D, crcRes := 0xF8BA93 })) = some 0 ∧
    readAfter 4 (exec .crcInit (machine { Block.reset with crcR := 0x8D, crcRes := 0xF8BA93 })) = some 0 := by decide

/-- K14. -/
theorem test_crc_bit : readAfter 3 (exec (.crcBit 1) (machine { Block.reset with crcR := 1 })) = some 0x000003 := by decide

/-- P1, the last byte of frame 1's check. -/
theorem test_crc_byte : readAfter 3 (exec (.crcByte 0x17) (machine { Block.reset with crcR := 0x8D4B })) = some 0x8D4B17 := by
  decide

/-- K11: the trailer of frame 1. -/
theorem test_crc_final :
    readAfter 4 (exec .crcFinal (machine { Block.reset with crcR := 0xE1AFC4 })) = some 0xB1F1AC ∧
    readAfter 3 (exec .crcFinal (machine { Block.reset with crcR := 0xE1AFC4 })) = some 0xE1AFC4 := by decide +kernel

/-- K10. -/
theorem test_crc_check_value :
    crc24Bytes [0x31, 0x32, 0x33, 0x34, 0x35, 0x36, 0x37, 0x38, 0x39] = 0x054268 := by decide +kernel

/-! ### The slice buffer (95 section 2.2) -/

/-- S17. -/
theorem test_slice_clear :
    readAfter 1 (exec .sliceClear (machine committed)) = some 0 ∧ readAfter 17 (exec .sliceClear (machine committed)) = some 0 := by
  decide

/-- S1. -/
theorem test_slice_push :
    readAfter 1 (exec (.slicePush 0x8D) State.reset) = some 0x00001000 ∧
    readAfter 17 (exec (.slicePush 0x8D) State.reset) = some 0x8D000000 := by decide

/-- S16. -/
theorem test_slice_push_full :
    readAfter 1 (exec (.slicePush 0x00) (machine loaded)) = some 0x0000E021 ∧
    readAfter 2 (exec (.slicePush 0x00) (machine loaded)) = some 0x31000000 := by decide

/-- S3, its last step. -/
theorem test_slice_ts16 :
    readAfter 13 (exec (.sliceTs16 0x5555) (machine { Block.reset with sbTs := 0x1111222233334444 })) = some 0x22223333 ∧
    readAfter 14 (exec (.sliceTs16 0x5555) (machine { Block.reset with sbTs := 0x1111222233334444 })) = some 0x44445555 := by
  decide

/-- S18. -/
theorem test_slice_ts16_invalidates :
    readAfter 1 (exec (.sliceTs16 0x0000) (machine committed)) = some 0x0000E000 ∧
    readAfter 7 (exec (.sliceTs16 0x0000) (machine committed)) = some 0 := by decide

/-- S4 and S5. -/
theorem test_byte_at :
    readAfter 16 (exec (.byteAt 13) (machine loaded)) = some 0x000000AC ∧
    readAfter 1 (exec (.byteAt 14) (machine loaded)) = some 0x0000E051 ∧
    readAfter 2 (exec (.byteAt 14) (machine loaded)) = some 0x3800000E := by decide

/-- S8 and S10. -/
theorem test_extract :
    readAfter 15 (exec (.extract 4 11) (machine loaded)) = some 0x00F82100 ∧
    readAfter 16 (exec (.extract 4 11) (machine loaded)) = some 0x02004BB8 ∧
    readAfter 16 (exec (.extract 11 14) (machine loaded)) = some 0x00B1F1AC := by decide

/-- S13, S14 and S15. -/
theorem test_extract_errors :
    readAfter 1 (exec (.extract 3 2) (machine loaded)) = some 0x0000E061 ∧
    readAfter 2 (exec (.extract 0 15) (machine loaded)) = some 0x390000F0 ∧
    readAfter 1 (exec (.extract 0 8) (machine loaded)) = some 0x0000E071 := by decide

/-! ### The RawFrame gate (95 section 2.3) -/

/-- RF1. -/
theorem test_slice_commit :
    readAfter 1 (exec .sliceCommit (machine loaded)) = some 0x0003E000 ∧
    readAfter 7 (exec .sliceCommit (machine loaded)) = some 0x004B17E5 := by decide +kernel

/-- RF10, RF11 and RF12. -/
theorem test_slice_commit_errors :
    readAfter 1 (exec .sliceCommit State.reset) = some 0x00000031 ∧
    readAfter 1 (exec .sliceCommit (machine { Block.reset with sbTs := 0x8000000000000000 })) = some 0x00000041 ∧
    readAfter 1 (exec .sliceCommit (machine { Block.reset with sbTs := 0x0000800000000000 })) = some 0x00000031 := by decide

/-- RF1's field registers. -/
theorem test_fields :
    busRead 5 (machine committed) = 0x11 ∧ busRead 6 (machine committed) = 5 ∧ busRead 8 (machine committed) = 0x1F ∧
    busRead 9 (machine committed) = 0x00F82100 ∧ busRead 10 (machine committed) = 0x02004BB8 ∧
    busRead 11 (machine committed) = 0x00B1F1AC ∧ busRead 20 (machine committed) = 0xF1AC0000 := by decide

/-- The end of D3: a pop from a queue, and from an empty one. -/
theorem test_slice_pop :
    readAfter 14 (exec .slicePop (machine { Block.reset with fifo := [{ ts := 360, fb := frame1 }] })) = some 360 ∧
    readAfter 17 (exec .slicePop (machine { Block.reset with fifo := [{ ts := 360, fb := frame1 }] })) = some 0x8D4B17E5 ∧
    readAfter 1 (exec .slicePop State.reset) = some 0x00000081 := by decide

/-! ### The demodulator (95 section 2.4) -/

/-- D9 and D11: the second sample of a pair. -/
theorem test_sample_pair :
    (blockOf (exec (.sample 2048) (machine { Block.reset with nIn := 1, pendV := true, pendS := recentre 3048 }))).map
      (fun b => (b.ph, b.nIn)) = some ([1000000], 2) ∧
    (blockOf (exec (.sample 0) (machine { Block.reset with nIn := 1, pendV := true, pendS := recentre 0 }))).map
      (fun b => b.ph) = some [8388608] := by decide

/-- D12 and D14. -/
theorem test_sample_ended :
    readAfter 1 (exec (.sample 2048) (machine { Block.reset with ended := true })) = some 0x00000191 ∧
    readAfter 1 (exec (.sample 2048) State.reset) = some 0x00000400 := by decide

/-- D2: EOS discards the odd sample; D13. -/
theorem test_eos :
    readAfter 1 (exec .eos (machine { Block.reset with nIn := 1, pendV := true })) = some 0x00000100 ∧
    readAfter 1 (exec .eos (machine { Block.reset with ended := true })) = some 0x00000100 := by decide

/-- D14. -/
theorem test_demod_reset :
    blockOf (exec .demodReset (machine { committed with
      nIn := 3, ph := [7], kpos := 1, ended := true, ovf := true, cntPre := 4, fifo := [{ ts := 360, fb := frame1 }] })) =
      some committed := by decide

/-! ### Witnesses: the hypotheses of the statements can be met -/

/-- A state with this event next. -/
def about (e : HostEvent) (rest : List HostEvent) : State := { machine committed with pending := e :: rest }

theorem about_accepted (e : HostEvent) (rest : List HostEvent) : (about e rest).Accepted := ⟨Nat.le_refl 1, (by decide : Params.reference.legal = true), rfl⟩

/-- Reset with the buffer holding `n` zero bytes and this timestamp. -/
def holding (n : Fin 15) (ts : BitVec 64) : State := machine { Block.reset with sbN := n, sbTs := ts }

theorem witness_DecodeAndEncodeAgree : decode 0x39000041 = .command (.extract 1 4) := by decide

theorem witness_OpcodeMap : (0x39000041 : Word) &&& Mnemonic.extract.mask = Mnemonic.extract.matchWord := by decide

theorem witness_EveryWordIsOneCommandOrIllegal :
    (0x12000100#32).extractLsb' 24 8 = Mnemonic.crcByte.opcode ∧
    0x12000100#32 &&& Mnemonic.crcByte.mask ≠ Mnemonic.crcByte.matchWord ∧
    0x1200008D#32 &&& Mnemonic.crcByte.mask = Mnemonic.crcByte.matchWord := by decide

theorem witness_ReservedOpcodesAreIllegal :
    (∀ m : Mnemonic, m.opcode.toNat ≠ ((0x14000000#32).extractLsb' 24 8).toNat) ∧
    ∀ m : Mnemonic, m.opcode.toNat ≠ ((0xFFFFFFFF#32).extractLsb' 24 8).toNat :=
  ⟨fun m => by cases m <;> decide, fun m => by cases m <;> decide⟩

theorem witness_StepRunsDecodedCommand :
    (about (.busWrite 0 0x31000001) []).Accepted ∧
    (about (.busWrite 0 0x31000001) []).pending = .busWrite 0 0x31000001 :: [] ∧
    decode 0x31000001 = .command (.slicePush 1) := ⟨about_accepted _ _, rfl, by decide⟩

theorem witness_BusWriteExecutesOrIsIgnored :
    ((about (.busWrite 31 1) []).Accepted ∧ (about (.busWrite 31 1) []).pending = .busWrite 31 1 :: [] ∧
      (31 : WordIndex) ≠ 0) ∧
    (∃ t, step (about (.busWrite 0 0x30000000) []) = .next t ∧ t.blk ≠ (about (.busWrite 0 0x30000000) []).blk) ∧
    ∃ t, step (about .powerOnReset []) = .next t ∧ t.blk ≠ (about .powerOnReset []).blk :=
  ⟨⟨about_accepted _ _, rfl, by decide⟩, ⟨_, rfl, by decide⟩, ⟨_, rfl, by decide⟩⟩

theorem witness_BusReadHasNoSideEffect :
    (about (.busRead 7) [.busRead 7]).Accepted ∧
    (about (.busRead 7) [.busRead 7]).pending = .busRead 7 :: .busRead 7 :: [] := ⟨about_accepted _ _, rfl⟩

/-- A command that changes STATUS. -/
theorem witness_StatusShowsTheFlags_changed :
    ∃ t, step (about (.busWrite 0 0x30000000) []) = .next t ∧
      busRead 1 t ≠ busRead 1 (about (.busWrite 0 0x30000000) []) := ⟨_, rfl, by decide⟩

/-- FIFO_COUNT at its largest. -/
theorem witness_StatusShowsTheFlags :
    let s : State := { State.reset with
      params := { Params.reference with fifoDepth := 15 }
      blk := { Block.reset with fifo := List.replicate 15 { ts := 0, fb := frame1 } } }
    s.params.legal = true ∧ s.blk.fifo.length ≤ s.params.fifoDepth := by decide

theorem slice_inv_loaded : SliceInv loaded where
  validMeans := by decide
  zeroBeyond := by intro i h h'; change 14 ≤ i at h; omega
  checkedMeans := by decide
  uncheckedMeans := by decide

theorem slice_inv_reset : SliceInv Block.reset where
  validMeans := by decide
  zeroBeyond := by intro i _ h'; interval_cases i <;> rfl
  checkedMeans := by decide
  uncheckedMeans := by decide

/-- An empty error record, and one that holds an error (95 section 2.5, E1). -/
theorem witness_RegistersShowTheState_errors :
    (ErrorInv Block.reset ∧ Block.reset.err = false) ∧
    (Block.reset.recordError .illegal 0x12000100).err = true ∧
    busRead 2 (machine (Block.reset.recordError .illegal 0x12000100)) = 0x12000100 :=
  ⟨⟨⟨fun _ => ⟨rfl, rfl, rfl⟩, nofun⟩, rfl⟩, by decide, by decide⟩

theorem witness_RegistersShowTheState :
    SliceInv (machine Block.reset).blk ∧ (machine Block.reset).blk.sbN.val ≤ 4 * 3 + 1 ∧ 4 * 3 + 1 < 14 :=
  ⟨slice_inv_reset, by decide, by decide⟩

/-- The build parameters at their bounds. -/
theorem witness_ParamsShowsTheBuild :
    ({ pPerUs := 254, preNum := 15, preDen := 15, fifoDepth := 15, resume := .oneSample } : Params).legal = true ∧
    ({ pPerUs := 2, preNum := 1, preDen := 1, fifoDepth := 1, resume := .skipFrame } : Params).legal = true ∧
    State.reset.params = Params.reference := by decide

theorem witness_LaunchIsCheckedAndKept :
    (1 < ({ State.reset with masters := 2 } : State).masters) ∧
    (({ State.reset with params := { Params.reference with pPerUs := 1 } } : State).masters ≤ 1 ∧
      ({ State.reset with params := { Params.reference with pPerUs := 1 } } : State).params.legal = false) ∧
    (∃ t, step (about (.busRead 1) []) = .next t) ∧ State.reset.Accepted ∧ State.reset.pending = [] :=
  ⟨by decide, by decide, ⟨_, rfl⟩, ⟨by decide, rfl, rfl⟩, rfl⟩

theorem witness_ResetClearsEverything :
    (about .powerOnReset []).Accepted ∧ (about .powerOnReset []).pending = .powerOnReset :: [] ∧
    ∃ t, exec .softReset (machine committed) = .next t := ⟨about_accepted _ _, rfl, _, rfl⟩

theorem witness_NopChangesNothing : (1 : BitVec 24) ≠ 0 := by decide

theorem witness_CrcStepIsPolynomialStep :
    (0x7FFFFF#24).getLsbD 23 = false ∧ (0x800000#24).getLsbD 23 = true := by decide

theorem witness_ParitySelfCheck : (frame1.toList.take 11).length = 11 ∧ (frame1.toList.drop 11).length = 3 := by decide

/-- Frame 1 is a valid frame of 112 bits, with a last bit. -/
theorem witness_SingleBitErrorsDetected :
    (bitsOfBytes frame1.toList).length = 112 ∧ crc24 (bitsOfBytes frame1.toList) = 0 ∧
    111 < (bitsOfBytes frame1.toList).length := by decide +kernel

theorem witness_ResignedFrameIsValid :
    let T := crc24Bytes (frame1.toList.take 11)
    (machine loaded).blk.sb.toList = frame1.toList.take 11 ++ [T.extractLsb' 16 8, T.extractLsb' 8 8, T.extractLsb' 0 8] ∧
    (machine loaded).blk.sbN = 14 ∧ (machine loaded).blk.sbTs.toNat < 2 ^ 63 := by decide +kernel

theorem witness_SlicePushAppends : (holding 13 0).blk.sbN.val < 14 ∧ (holding 14 0).blk.sbN.val = 14 := by decide

theorem witness_ByteAtReadsOneByte :
    (13#4).toNat < (holding 14 0).blk.sbN.val ∧ (holding 14 0).blk.sbN.val ≤ (14#4).toNat := by decide

/-- Each clause at the value where the next one starts. -/
theorem witness_ExtractReadsARange :
    (((14#4).toNat < (15#4).toNat ∨ (holding 14 0).blk.sbN.val < (14#4).toNat) ∧
      ((0#4).toNat < (15#4).toNat ∧ (holding 14 0).blk.sbN.val < (15#4).toNat)) ∧
    ((6#4).toNat ≤ (14#4).toNat ∧ (14#4).toNat ≤ (holding 14 0).blk.sbN.val ∧ 8 ≤ (14#4).toNat - (6#4).toNat) ∧
    ((7#4).toNat ≤ (14#4).toNat ∧ (14#4).toNat ≤ (holding 14 0).blk.sbN.val ∧ (14#4).toNat - (7#4).toNat < 8) ∧
    ((14#4).toNat ≤ (14#4).toNat ∧ (14#4).toNat ≤ (holding 14 0).blk.sbN.val) := by decide

theorem witness_SliceCommitChecksTheFrame :
    (holding 13 0x8000000000000000).blk.sbTs.toInt < 0 ∧
    (0 ≤ (holding 13 0x7FFFFFFFFFFFFFFF).blk.sbTs.toInt ∧ (holding 13 0x7FFFFFFFFFFFFFFF).blk.sbN.val ≠ 14) ∧
    (0 ≤ (holding 14 0x7FFFFFFFFFFFFFFF).blk.sbTs.toInt ∧ (holding 14 0x7FFFFFFFFFFFFFFF).blk.sbN.val = 14) := by decide

theorem slice_inv_committed : SliceInv committed where
  validMeans := by decide +kernel
  zeroBeyond := by intro i h h'; change 14 ≤ i at h; omega
  checkedMeans := by decide +kernel
  uncheckedMeans := by decide +kernel

theorem witness_FieldRegistersAreGatedSlices :
    (machine committed).blk.valid = true ∧ SliceInv (machine committed).blk ∧ (machine loaded).blk.valid = false :=
  ⟨rfl, slice_inv_committed, rfl⟩

theorem witness_SlicePopMovesTheOldest :
    State.reset.blk.fifo = [] ∧
    (machine { Block.reset with fifo := [{ ts := 360, fb := frame1 }] }).blk.fifo = { ts := 360, fb := frame1 } :: [] := by
  decide

theorem witness_SampleIsHeldOrPaired :
    (machine { Block.reset with ended := true }).blk.ended = true ∧
    (State.reset.blk.ended = false ∧ State.reset.blk.pendV = false) ∧
    ((machine { Block.reset with pendV := true }).blk.ended = false ∧
      (machine { Block.reset with pendV := true }).blk.pendV = true) := by decide

/-- The ideal signal of frame 1 (95 section 2.4), with one power sample in each half-bit. -/
def signal : List Bits24 := idealFrame 1000000 1 frame1

/-- A block that has received the signal but has not tried its position. -/
def received (q : List Candidate) : Block := { Block.reset with nIn := 480, ph := signal, fifo := q }

/-- A window not yet complete by one power sample, and two histories that differ before the window only. -/
theorem witness_OnePositionPerPowerSample :
    (smallBuild.legal = true ∧ (received []).ph.length < 2 ^ 63 ∧
      (received []).kpos.toNat + window smallBuild ≤ (received []).ph.length) ∧
    (smallBuild.legal = true ∧ ({ Block.reset with ph := List.replicate 239 0 } : Block).ph.length <
      ({ Block.reset with ph := List.replicate 239 0 } : Block).kpos.toNat + window smallBuild) ∧
    ∀ j, 2 ≤ j + 1 → j < 2 + window smallBuild → ([1, 5, 6] : List Bits24).getD j 0 = ([2, 5, 6] : List Bits24).getD j 0 := by
  refine ⟨by decide +kernel, by decide +kernel, fun j h _ => ?_⟩
  match j with
  | 0 => omega
  | _ + 1 => rfl

/-- The case the remark of R191 leaves out: with a ratio of 1/2 a constant input matches at position 0 (log 11). -/
theorem witness_ConstantInputMatchesAtMostAtTheStart :
    let p : Params := { smallBuild with preNum := 1, preDen := 2 }
    p.legal = true ∧ 0 + window p ≤ 240 ∧ preambleMatch p (List.replicate 240 1) 0 = true := by decide +kernel

theorem witness_BitsAndBytesOfAFrame : ∀ x ∈ ([8388608, 0] : List Bits24), x.toNat ≤ 2 ^ 23 := by
  intro x hx
  rcases List.mem_cons.mp hx with rfl | hx
  · decide
  · rw [List.mem_singleton.mp hx]
    decide

theorem witness_FrameSizeByFormat :
    (0x8F#8).toNat / 8 = 17 ∧ (0x97#8).toNat / 8 = 18 ∧ ((0x98#8).toNat / 8 ≠ 17 ∧ (0x98#8).toNat / 8 ≠ 18) ∧
    ((0x87#8).toNat / 8 ≠ 17 ∧ (0x87#8).toNat / 8 ≠ 18) := by decide

/-- The four cases: silence; downlink format 11; room in the queue; a full queue. -/
theorem witness_TryingAPosition :
    preambleMatch smallBuild (List.replicate 240 0) 0 = false ∧
    (preambleMatch smallBuild (idealFrame 1 1 (frame1.set 0 0x5D)) 0 = true ∧
      frameSize (frameByte smallBuild (idealFrame 1 1 (frame1.set 0 0x5D)) 0 0) = 0) ∧
    (preambleMatch smallBuild signal 0 = true ∧ frameSize (frameByte smallBuild signal 0 0) = 14) ∧
    (received []).fifo.length < smallBuild.fifoDepth ∧
    smallBuild.fifoDepth ≤ (received [{ ts := 0, fb := frame1 }]).fifo.length := by decide +kernel

/-- What is received from the signal: frame 1, with the timestamp of its first data bit, 2·16 (43_demod.md R196). -/
theorem test_frame_received :
    (tryPositions smallBuild (received [])).fifo = [{ ts := 32, fb := frame1 }] ∧
    (tryPositions smallBuild (received [])).kpos = 240 := by decide +kernel

theorem witness_IdealFrameIsReceived :
    smallBuild.legal = true ∧ (1000000 : Bits24) ≠ 0 ∧ ([] : List Bits24).length = (received []).kpos.toNat ∧
    (∀ j, j + 1 = ([] : List Bits24).length → ([] : List Bits24).getD j 0 = 0) ∧
    (received []).ph = [] ++ idealFrame 1000000 (smallBuild.pPerUs / 2) frame1 ∧
    (downlinkFormat frame1 = 17 ∨ downlinkFormat frame1 = 18) ∧ (received []).fifo.length < smallBuild.fifoDepth := by
  refine ⟨by decide +kernel, by decide +kernel, rfl, ?_, rfl, by decide +kernel, by decide +kernel⟩
  intro j h
  simp at h

theorem witness_EndedStreamIsFrozen :
    (machine { Block.reset with ended := true }).blk.ended = true ∧ Instr.sample 0 ≠ .demodReset ∧
    Instr.sample 0 ≠ .softReset ∧ ∃ t, exec (.sample 0) (machine { Block.reset with ended := true }) = .next t :=
  ⟨rfl, by decide, by decide, _, rfl⟩

theorem witness_PositionNeverMovesBack :
    (machine committed).params.legal = true ∧ (machine committed).blk.ph.length < 2 ^ 62 ∧
    ∃ t, exec (.sample 0) (machine committed) = .next t := ⟨rfl, by decide, _, rfl⟩

/-- Two histories that differ in the power sample before `p[kpos - 1]`. -/
theorem witness_OldHistoryIsNeverRead :
    State.reset.params.legal = true ∧
    SameFromWindow { Block.reset with ph := [1, 5, 6], kpos := 2 } { Block.reset with ph := [2, 5, 6], kpos := 2 } := by
  refine ⟨rfl, rfl, rfl, fun j h => ?_⟩
  change 2 ≤ j + 1 at h
  match j with
  | 0 => omega
  | _ + 1 => rfl

theorem witness_illegal_word : ∀ i : Instr, encode i ≠ 0x14000000 := by
  intro i h
  have h8 : (encode i).extractLsb' 24 8 = 0x14#8 := by rw [h]; rfl
  rw [opcode_encode] at h8
  revert h8
  cases i.mnemonic <;> decide

theorem witness_MatchTestsPeaksAgainstGaps : preambleMatch smallBuild signal 0 = true := by decide +kernel

/-- Every error, each raised at the value where the command just fails. -/
theorem witness_ErrorsArePrecise :
    errorRaised (.slicePush 0) (holding 14 0).blk = some .full ∧
    errorRaised .sliceCommit (holding 13 0x8000000000000000).blk = some .tsNeg ∧
    errorRaised .sliceCommit (holding 13 0x7FFFFFFFFFFFFFFF).blk = some .len ∧
    errorRaised (.byteAt 13) (holding 13 0).blk = some .index ∧
    errorRaised (.extract 0 14) (holding 13 0).blk = some .range ∧
    errorRaised (.extract 5 13) (holding 13 0).blk = some .span ∧
    errorRaised .slicePop Block.reset = some .empty ∧
    errorRaised (.sample 0) { Block.reset with ended := true } = some .ended ∧
    Block.reset.err = false ∧ ({ Block.reset with err := true } : Block).err = true := by decide

theorem witness_ErrorRecordIsSticky :
    errorRaised (.slicePush 0) (holding 13 0).blk = none ∧ Instr.slicePush 0 ≠ .errClear ∧
    Instr.slicePush 0 ≠ .softReset ∧ (∃ t, exec (.slicePush 0) (holding 13 0) = .next t) ∧
    (Instr.sliceTs16 0).mnemonic ∈ [Mnemonic.eos, .sliceTs16] := ⟨by decide, by decide, by decide, ⟨_, rfl⟩, by decide⟩

theorem witness_OnlyTheListedCommandsWrite :
    (∃ t, exec (.byteAt 0) (machine committed) = .next t) ∧ (Instr.byteAt 0).mnemonic ∉ [Mnemonic.crcInit, .crcFinal, .softReset] :=
  ⟨⟨_, rfl⟩, by decide⟩

/-! ### A state, not reset, that meets the invariants -/

/-- The block after stream D1, SLICE_COMMIT of an earlier frame, and an error: frame 1 queued with its timestamp 360. -/
def afterD1 : Block :=
  { committed with
    err := true, errCode := 9, errCmd := 0x20000800
    nIn := 2600, ph := List.replicate 1300 0, kpos := 1300, ended := true, cntPre := 4, cntEmit := 1
    fifo := [{ ts := 360, fb := frame1 }] }

/-- Its queue holds one frame. -/
theorem afterD1_fifo {e : Candidate} (h : e ∈ afterD1.fifo) : e = { ts := 360, fb := frame1 } := List.mem_singleton.mp h

theorem demod_inv_afterD1 : DemodInv Params.reference afterD1 where
  powersPaired := List.length_replicate
  pendRunning := by intro h; cases h
  pendEnded := by intro _; rfl
  windowsTried := by intro h; cases h
  fifoFits := by decide
  fifoOrdered := List.pairwise_singleton _ _
  positionWithin := by
    show 1300 ≤ (List.replicate 1300 (0 : Bits24)).length
    rw [List.length_replicate]
  fifoBefore := by
    intro e he
    rw [afterD1_fifo he]
    decide
  fifoSpaced := by
    intro _
    refine ⟨List.pairwise_singleton _ _, ?_⟩
    intro e he
    rw [afterD1_fifo he]
    decide
  fifoFormats := by
    intro e he
    rw [afterD1_fifo he]
    exact .inl (by decide)
  powersBounded := by
    intro x hx
    rw [List.eq_of_mem_replicate hx]
    decide

/-- The invariants are met after D1, with a command next and the sample counter far from its wrap. -/
theorem witness_StepKeepsEveryInvariant :
    Inv { machine afterD1 with pending := [.busWrite 0 0x34000000] } ∧
    ({ machine afterD1 with pending := [.busWrite 0 0x34000000] } : State).blk.farFromWrap ∧
    ∃ t, step { machine afterD1 with pending := [.busWrite 0 0x34000000] } = .next t := by
  refine ⟨⟨by decide, rfl, demod_inv_afterD1, ?_, ?_⟩, ?_, _, rfl⟩
  · exact ⟨slice_inv_committed.validMeans, slice_inv_committed.zeroBeyond, slice_inv_committed.checkedMeans,
      slice_inv_committed.uncheckedMeans⟩
  · exact ⟨nofun, fun _ => ⟨.ended, rfl⟩⟩
  · show (2600#64).toNat < 2 ^ 62
    decide

theorem witness_StepKeepsSliceAndErrorRecord :
    (∃ t, step (about (.busWrite 0 0x31000000) []) = .next t) ∧ SliceInv (about (.busWrite 0 0x31000000) []).blk ∧
    ErrorInv (about (.busWrite 0 0x31000000) []).blk :=
  ⟨⟨_, rfl⟩, slice_inv_committed, ⟨fun _ => ⟨rfl, rfl, rfl⟩, nofun⟩⟩

theorem witness_EveryRunKeepsR39 :
    smallBuild.legal = true ∧ ([.busWrite 0 0x20000800, .powerOnReset] : List HostEvent).length < 2 ^ 62 := by decide

/-! ### Statements whose hypotheses other witnesses also meet, each by its own name -/

theorem witness_InvariantStatesGoOn : ∃ s : State, Inv s ∧ s ≠ State.reset :=
  ⟨_, witness_StepKeepsEveryInvariant.1, by decide⟩

theorem witness_InvariantsHoldAtReset : smallBuild.legal = true := by decide

theorem witness_StreamEndsAndStarts :
    State.reset.blk.ended = false ∧ (machine { Block.reset with ended := true }).blk.ended = true := by decide

theorem witness_CrcIsLinear : ([true, false] : List Bool).length = ([true, true] : List Bool).length := by decide

theorem witness_ParityChecksAgree : (frame1.toList.take 11).length = 11 ∧ (frame1.toList.drop 11).length = 3 := by decide

/-- The widest range, and an empty one at the end of the buffer. -/
theorem witness_ExtractIsByteAtShifted :
    ((7#4).toNat ≤ (14#4).toNat ∧ (14#4).toNat ≤ (machine loaded).blk.sbN.val ∧ (14#4).toNat - (7#4).toNat < 8) ∧
    ((14#4).toNat ≤ (14#4).toNat ∧ (14#4).toNat ≤ (machine loaded).blk.sbN.val) := by decide

theorem witness_ParityFieldOfAValidFrame : SliceInv (machine committed).blk ∧ (machine committed).blk.valid = true :=
  ⟨slice_inv_committed, rfl⟩

end Sys2Proof.Tests
end

section
/-! PROOFS. The launch (00_scope.md R7, R8): what is refused before anything runs, and that no step changes it. -/

namespace Sys2Proof.Proofs.Scope

open Sys2Proof.Machine

/-! ### Refused launches -/

/-- More than one bus master is refused whatever the build (00_scope.md R7). -/
theorem launchRefusal_of_two_masters {s : State} (h : 1 < s.masters) :
    launchRefusal s = some .moreThanOneMaster := if_pos h

/-- Under at most one master, an illegal build is what is refused (log 5). -/
theorem launchRefusal_of_illegal_params {s : State} (hm : s.masters ≤ 1) (hp : s.params.legal = false) :
    launchRefusal s = some .illegalParameters := by
  rw [launchRefusal, if_neg (Nat.not_lt.mpr hm), hp]
  rfl

/-- A refused launch refuses every step, before the error code or the host's events are looked at. -/
theorem step_of_launchRefusal {s : State} {r : Refusal} (h : launchRefusal s = some r) :
    step s = .refused r := by
  simp only [step, h]

/-! ### The launch is kept -/

/-- A turn performs the host's event on the block and the host's own lists; the launch is neither (00_scope.md R8). -/
theorem turn_keeps_launch {s t : State} (h : turn s = .next t) :
    t.params = s.params ∧ t.masters = s.masters := by
  obtain ⟨-, h'⟩ | ⟨w, rest, -, h'⟩ | ⟨_, _, _, -, -, h'⟩ | ⟨_, _, -, h'⟩ | ⟨_, -, h'⟩ := turn_cases s <;>
    rw [h'] at h
  case inr.inl =>
    obtain ⟨b, hb⟩ := executeCommand_next w { s with pending := rest }
    rw [hb] at h
    cases h
    exact ⟨rfl, rfl⟩
  all_goals
    cases h
    exact ⟨rfl, rfl⟩

/-- No step changes the build parameters or the number of masters. -/
theorem step_keeps_launch {s t : State} (h : step s = .next t) :
    t.params = s.params ∧ t.masters = s.masters :=
  turn_keeps_launch (accepted_of_step h).2

/-! ### An idle host -/

/-- With nothing pending, a turn changes nothing (00_scope.md R6, log 1). -/
theorem turn_of_idle {s : State} (h : s.pending = []) : turn s = .next s := by
  simp only [turn, present, h]

/-- Settles O14: a refused launch refuses the step by the same name, every turn keeps the launch, and an accepted
machine's step is a turn, which does nothing for an idle host. -/
theorem launchIsCheckedAndKept : Obligations.LaunchIsCheckedAndKept := by
  refine ⟨fun s => ⟨?twoMasters, ?illegalBuild⟩, fun _ _ => step_keeps_launch, ?idle⟩
  case twoMasters => exact fun h => step_of_launchRefusal (launchRefusal_of_two_masters h)
  case illegalBuild => exact fun hm hp => step_of_launchRefusal (launchRefusal_of_illegal_params hm hp)
  case idle => exact fun _ hs hp => (step_of_accepted hs).trans (turn_of_idle hp)

end Sys2Proof.Proofs.Scope
end

section
/-! PROOFS. The block's state (10_state.md): what a command does to the block, said once, the elements it leaves alone
(R22), the search position (R21), the hidden history (R28) and the invariants (R39). -/

namespace Sys2Proof.Proofs.BlockState

open Sys2Proof.Machine

/-! ### The effect of a command on the block -/

/-- The block a command leaves when its checks find no error. -/
def completion (i : Instr) (p : Params) (b : Block) : Block :=
  match i with
  | .nop => b
  | .errClear => b.clearErrors
  | .softReset => Block.reset
  | .crcInit => { b with crcR := 0, crcRes := 0 }
  | .crcBit x => { b with crcR := crcStep b.crcR (x.getLsbD 0) }
  | .crcByte byte => { b with crcR := feedByte b.crcR byte }
  | .crcFinal => { b with crcRes := augment b.crcR }
  | .sample raw => acceptSample p raw b
  | .eos => if b.ended then b else { b with ended := true, pendV := false }
  | .demodReset => b.newStream
  | .sliceClear => b.clearBuffer
  | .slicePush byte => b.pushByte byte
  | .sliceTs16 imm16 => b.shiftTimestamp imm16
  | .sliceCommit => b.recordSyndrome (syndrome b.sb)
  | .slicePop =>
    match b.fifo with
    | [] => b
    | c :: rest => Block.loadCandidate c { b with fifo := rest }
  | .byteAt idx => { b with ext := (bufferByte b.sb (indexOperand idx)).setWidth 56 }
  | .extract lo hi => { b with ext := bigEndianRange 56 b.sb (indexOperand lo) (indexOperand hi) }

/-- The block a command leaves: the error of its first failing check recorded, or its completion. -/
def blockAfter (i : Instr) (p : Params) (b : Block) : Block :=
  match errorRaised i b with
  | some c => b.recordError c (encode i)
  | none => completion i p b

theorem blockAfter_of_error {i : Instr} {b : Block} {c : ErrorCode} (h : errorRaised i b = some c) (p : Params) :
    blockAfter i p b = b.recordError c (encode i) := by
  rw [blockAfter, h]

theorem blockAfter_of_none {i : Instr} {b : Block} (h : errorRaised i b = none) (p : Params) :
    blockAfter i p b = completion i p b := by
  rw [blockAfter, h]

theorem blockAfter_cases (i : Instr) (p : Params) (b : Block) :
    (∃ c, errorRaised i b = some c ∧ blockAfter i p b = b.recordError c (encode i)) ∨
    (errorRaised i b = none ∧ blockAfter i p b = completion i p b) := by
  cases h : errorRaised i b with
  | none => exact .inr ⟨rfl, blockAfter_of_none h p⟩
  | some c => exact .inl ⟨c, rfl, blockAfter_of_error h p⟩

/-- The timestamp is negative exactly when its bit 63 is set (44_rawframe.md R241). -/
theorem getLsbD_63_iff (x : BitVec 64) : x.getLsbD 63 = true ↔ 2 ^ 63 ≤ x.toNat := by
  rw [← BitVec.msb_eq_getLsbD_last, BitVec.msb_eq_true_iff_two_mul_ge]
  omega

/-- A buffer of 14 bytes, as a number and as an element of `Fin 15`. -/
theorem sbN_eq_14_iff (n : Fin 15) : n.val = 14 ↔ n = 14 := by
  rw [Fin.ext_iff]; rfl

/-- What `exec` does, in one equation: the machine with the block `blockAfter` gives. -/
theorem exec_eq (i : Instr) (s : State) : exec i s = .next (s.setBlk (blockAfter i s.params s.blk)) := by
  cases i with
  | sample raw =>
    show execSample raw s = _
    cases h : s.blk.ended <;> simp [execSample, blockAfter, errorRaised, completion, h]
  | eos =>
    show execEos s = _
    cases h : s.blk.ended <;> simp [execEos, blockAfter, errorRaised, completion, h]
  | slicePush byte =>
    show execSlicePush byte s = _
    simp only [execSlicePush, blockAfter, errorRaised, completion, sbN_eq_14_iff]
    split_ifs <;> rfl
  | sliceCommit =>
    show execSliceCommit s = _
    simp only [execSliceCommit, blockAfter, errorRaised, completion, sbN_eq_14_iff, getLsbD_63_iff, ne_eq]
    split_ifs <;> rfl
  | slicePop =>
    show execSlicePop s = _
    cases h : s.blk.fifo <;> simp [execSlicePop, blockAfter, errorRaised, completion, h]
  | byteAt idx =>
    show execByteAt idx s = _
    simp only [execByteAt, blockAfter, errorRaised, completion, indexOperand, ← Nat.not_lt]
    split_ifs <;> rfl
  | extract lo hi =>
    show execExtract lo hi s = _
    have hspan : 8 ≤ hi.toNat - lo.toNat ↔ lo.toNat + 8 ≤ hi.toNat := by omega
    simp only [execExtract, blockAfter, errorRaised, completion, indexOperand, hspan]
    split_ifs <;> rfl
  | _ => rfl

/-- A command's next state: the block after it, and everything else as it was. -/
theorem eq_of_exec {i : Instr} {s t : State} (h : exec i s = .next t) :
    t = s.setBlk (blockAfter i s.params s.blk) := by
  rw [exec_eq] at h
  cases h
  rfl

/-! ### The elements each command writes (10_state.md R22) -/

/-- The "written by" column of 10_state.md R22, the error record apart: the elements of a block that a command of this
row must leave as they were. -/
structure WritesOnlyListed (m : Mnemonic) (b b' : Block) : Prop where
  crcR : m ∉ [.crcInit, .crcBit, .crcByte, .softReset] → b'.crcR = b.crcR
  crcRes : m ∉ [.crcInit, .crcFinal, .softReset] → b'.crcRes = b.crcRes
  pendV : m ∉ [.sample, .eos, .demodReset, .softReset] → b'.pendV = b.pendV
  stream : m ∉ [.sample, .demodReset, .softReset] →
    b'.pendS = b.pendS ∧ b'.nIn = b.nIn ∧ b'.ph = b.ph ∧ b'.kpos = b.kpos ∧
    b'.cntPre = b.cntPre ∧ b'.cntEmit = b.cntEmit ∧ b'.cntDrop = b.cntDrop
  ended : m ∉ [.eos, .demodReset, .softReset] → b'.ended = b.ended
  fifo : m ∉ [.sample, .slicePop, .demodReset, .softReset] → b'.fifo = b.fifo
  ovf : m ∉ [.sample, .errClear, .demodReset, .softReset] → b'.ovf = b.ovf
  buffer : m ∉ [.sliceClear, .slicePush, .slicePop, .softReset] → b'.sb = b.sb ∧ b'.sbN = b.sbN
  sbTs : m ∉ [.sliceClear, .sliceTs16, .slicePop, .softReset] → b'.sbTs = b.sbTs
  flags : m ∉ [.sliceClear, .slicePush, .sliceTs16, .slicePop, .sliceCommit, .softReset] →
    b'.valid = b.valid ∧ b'.checked = b.checked ∧ b'.syn = b.syn
  ext : m ∉ [.byteAt, .extract, .softReset] → b'.ext = b.ext

/-- What is not in a list is in none of its parts. -/
theorem not_listed_of_subset {m : Mnemonic} {l l' : List Mnemonic} (h : m ∉ l') (hs : l ⊆ l' := by decide) :
    m ∉ l := fun hm => h (hs hm)

theorem WritesOnlyListed.refl (m : Mnemonic) (b : Block) : WritesOnlyListed m b b := by
  constructor <;> intros <;> simp

/-- An error writes its record alone (60_exceptions.md R284). -/
theorem recordError_writesOnlyListed (m : Mnemonic) (c : ErrorCode) (w : Word) (b : Block) :
    WritesOnlyListed m b (b.recordError c w) := by
  rw [recordError_frame]
  constructor <;> intros <;> simp

theorem acceptSample_writesOnlyListed (p : Params) (raw : BitVec 12) (b : Block) :
    WritesOnlyListed .sample b (acceptSample p raw b) := by
  rw [acceptSample_frame]
  constructor <;> simp

theorem completion_writesOnlyListed (i : Instr) (p : Params) (b : Block) :
    WritesOnlyListed i.mnemonic b (completion i p b) := by
  cases i with
  | nop => exact .refl _ b
  | sample raw => exact acceptSample_writesOnlyListed p raw b
  | eos =>
    cases h : b.ended
    · constructor <;> simp [completion, Instr.mnemonic, h]
    · rw [completion, if_pos h]
      exact .refl _ b
  | slicePop =>
    rcases h : b.fifo with _ | ⟨c, rest⟩
    · rw [completion, h]
      exact .refl _ b
    · constructor <;> simp [completion, Instr.mnemonic, h]
  | _ => constructor <;> simp [completion, Instr.mnemonic]

/-- A command, whether it completes or raises an error, writes only the elements listed for it. -/
theorem blockAfter_writesOnlyListed (i : Instr) (p : Params) (b : Block) :
    WritesOnlyListed i.mnemonic b (blockAfter i p b) := by
  obtain ⟨c, -, h⟩ | ⟨-, h⟩ := blockAfter_cases i p b <;> rw [h]
  · exact recordError_writesOnlyListed i.mnemonic c (encode i) b
  · exact completion_writesOnlyListed i p b

/-- Settles O54: a command answers the machine with another block, and that block keeps every element the command is
not listed for. -/
theorem onlyTheListedCommandsWrite : Obligations.OnlyTheListedCommandsWrite := by
  intro i s t h
  obtain rfl := eq_of_exec h
  have w := blockAfter_writesOnlyListed i s.params s.blk
  exact ⟨w.crcR, w.crcRes, w.pendV, w.stream, w.ended, w.fifo, w.ovf, w.buffer, w.sbTs, w.flags, w.ext,
    rfl, rfl, rfl, rfl⟩

/-! ### The search position (10_state.md R21) -/

/-- A try moves the position on, at most to the end of the window it tried, while that is below the wrap. -/
theorem tryPosition_moves {p : Params} (hp : p.legal = true) {k : Nat} (b : Block) (hk : k + window p < 2 ^ 64) :
    k < (tryPosition p k b).kpos.toNat ∧ (tryPosition p k b).kpos.toNat ≤ k + window p := by
  have hw := window_bounds hp
  have hr := resumePosition_gt hp k
  obtain h | h := tryPosition_kpos p k b <;> rw [h, BitVec.toNat_ofNat, Nat.mod_eq_of_lt] <;> omega

/-- The search never moves the position back. -/
theorem tryPositions_kpos_le {p : Params} (hp : p.legal = true) {b : Block} (hl : b.ph.length < 2 ^ 64) :
    b.kpos.toNat ≤ (tryPositions p b).kpos.toNat := by
  refine (tryLoop_induct (Q := fun b' => b'.ph.length < 2 ^ 64 ∧ b.kpos.toNat ≤ b'.kpos.toNat) ?_ _ b
    ⟨hl, le_rfl⟩).2
  rintro b' ⟨hl', hle⟩ hc
  have hm := tryPosition_moves hp b' (hc.trans_lt hl')
  exact ⟨by rwa [tryPosition_ph], by omega⟩

/-- The block in which the search runs after the second sample of a pair: the sample counted and the pair's power stored
(43_demod.md R187). -/
def storePair (raw : BitVec 12) (b : Block) : Block :=
  { b with nIn := b.nIn + 1, ph := b.ph ++ [power b.pendS (recentre raw)], pendV := false }

@[simp] theorem storePair_nIn (raw : BitVec 12) (b : Block) : (storePair raw b).nIn = b.nIn + 1 := rfl
@[simp] theorem storePair_ph (raw : BitVec 12) (b : Block) :
    (storePair raw b).ph = b.ph ++ [power b.pendS (recentre raw)] := rfl
@[simp] theorem storePair_pendV (raw : BitVec 12) (b : Block) : (storePair raw b).pendV = false := rfl

/-- The second sample of a pair stores its power and then starts the search (43_demod.md R187). -/
theorem acceptSample_pair {p : Params} {raw : BitVec 12} {b : Block} (h : b.pendV = true) :
    acceptSample p raw b = tryPositions p (storePair raw b) := acceptSample_even h

theorem acceptSample_kpos_le {p : Params} (hp : p.legal = true) (raw : BitVec 12) {b : Block}
    (hl : b.ph.length < 2 ^ 62) : b.kpos.toNat ≤ (acceptSample p raw b).kpos.toNat := by
  cases h : b.pendV
  · rw [acceptSample_odd h]
  · rw [acceptSample_pair h]
    exact tryPositions_kpos_le hp (b := storePair raw b) (by simp; omega)

/-- The position is reset to 0 by the two resets, moved on by SAMPLE, and left alone by every other command. -/
theorem blockAfter_kpos {i : Instr} {p : Params} (hp : p.legal = true) {b : Block} (hl : b.ph.length < 2 ^ 62) :
    b.kpos.toNat ≤ (blockAfter i p b).kpos.toNat ∨
    ((blockAfter i p b).kpos = 0 ∧ (i = .demodReset ∨ i = .softReset)) := by
  by_cases hm : i.mnemonic ∈ [.sample, .demodReset, .softReset]
  · cases i with
    | sample raw =>
      left
      obtain ⟨c, -, h⟩ | ⟨-, h⟩ := blockAfter_cases (.sample raw) p b <;> rw [h]
      · rw [recordError_frame]
      · exact acceptSample_kpos_le hp raw hl
    | demodReset => exact .inr ⟨rfl, .inl rfl⟩
    | softReset => exact .inr ⟨rfl, .inr rfl⟩
    | _ => simp [Instr.mnemonic] at hm
  · obtain ⟨-, -, -, hk, -⟩ := (blockAfter_writesOnlyListed i p b).stream hm
    exact .inl (by rw [hk])

/-- Settles O50: a command moves the position on, keeps it, or resets it. -/
theorem positionNeverMovesBack : Obligations.PositionNeverMovesBack := by
  intro i s t hp hl h
  obtain rfl := eq_of_exec h
  exact blockAfter_kpos hp hl

/-! ### Hidden history (10_state.md R28) -/

section Related

variable {b b' : Block} (h : SameFromWindow b b') (p : Params)

include h

theorem powerAt_of_same {j : Nat} (hj : b.kpos.toNat ≤ j + 1) : powerAt b'.ph j = powerAt b.ph j := by
  rw [powerAt, powerAt, h.window j hj]

/-- Two related blocks have the same history from `p[kpos - 1]` on. -/
theorem drop_of_same {a : Nat} (ha : b.kpos.toNat ≤ a + 1) : b'.ph.drop a = b.ph.drop a := by
  refine List.ext_getElem (by simp [h.lengths]) fun j hj' hj => ?_
  have hw := h.window (a + j) (by omega)
  rw [List.length_drop] at hj' hj
  rw [List.getD_eq_getElem _ _ (by omega), List.getD_eq_getElem _ _ (by omega)] at hw
  simpa using hw

theorem peakSum_of_same {k : Nat} (hk : b.kpos.toNat ≤ k + 1) : peakSum p b'.ph k = peakSum p b.ph k := by
  simp (disch := omega) only [peakSum, powerAt_of_same h]

theorem valleySum_of_same : valleySum p b'.ph b.kpos.toNat = valleySum p b.ph b.kpos.toNat := by
  simp (disch := omega) only [valleySum, powerAt_of_same h]

/-- The match test reads one power sample before the position, in `PS(kpos - 1)`, and none earlier (43_demod.md R191). -/
theorem preambleMatch_of_same : preambleMatch p b'.ph b.kpos.toNat = preambleMatch p b.ph b.kpos.toNat := by
  have hbefore : peakSumBefore p b'.ph b.kpos.toNat = peakSumBefore p b.ph b.kpos.toNat := by
    cases hk : b.kpos.toNat with
    | zero => rfl
    | succ k => exact peakSum_of_same h p hk.le
  simp (disch := omega) only [preambleMatch, hbefore, peakSum_of_same h, valleySum_of_same h]

/-- No data bit of a frame at the position reads anything before it (43_demod.md R192). -/
theorem dataBit_of_same (i : Nat) : dataBit p b'.ph b.kpos.toNat i = dataBit p b.ph b.kpos.toNat i := by
  have hhalf (x : Nat) : halfPower b'.ph (halfUs p) (dataStart p b.kpos.toNat + x) =
      halfPower b.ph (halfUs p) (dataStart p b.kpos.toNat + x) := by
    rw [halfPower, halfPower, drop_of_same h (by unfold dataStart; omega)]
  simp only [dataBit, Nat.add_assoc, hhalf]

theorem frameByte_of_same (j : Nat) : frameByte p b'.ph b.kpos.toNat j = frameByte p b.ph b.kpos.toNat j := by
  simp only [frameByte, dataBit_of_same h]

theorem frameAt_of_same : frameAt p b'.ph b.kpos.toNat = frameAt p b.ph b.kpos.toNat := by
  simp only [frameAt, frameByte_of_same h]

end Related

/-- A block with another power history. -/
def withHistory (ph : List Bits24) (b : Block) : Block := { b with ph := ph }

@[simp] theorem withHistory_ph (ph : List Bits24) (b : Block) : (withHistory ph b).ph = ph := rfl

/-- A related block is the same block with another history. -/
theorem exists_withHistory_of_same {b b' : Block} (h : SameFromWindow b b') : ∃ ph, b' = withHistory ph b :=
  ⟨_, h.elsewhere⟩

/-- Queueing a frame does not look at the history. -/
theorem fifoPut_withHistory (p : Params) (e : Candidate) (ph : List Bits24) (b : Block) :
    fifoPut p e (withHistory ph b) = withHistory ph (fifoPut p e b) := by
  by_cases hr : b.fifo.length < p.fifoDepth
  · rw [fifoPut_room hr, fifoPut_room (b := withHistory ph b) hr]
    rfl
  · rw [fifoPut_full hr, fifoPut_full (b := withHistory ph b) hr]
    rfl

/-- Emitting a frame looks at the history for its bytes only (43_demod.md R196). -/
theorem emit_withHistory {p : Params} {k : Nat} {ph : List Bits24} {b : Block}
    (hf : frameAt p ph k = frameAt p b.ph k) : emit p k (withHistory ph b) = withHistory ph (emit p k b) := by
  rw [emit, emit, withHistory_ph, hf, fifoPut_withHistory]
  rfl

/-- Trying the position of two related blocks has the same effect on both. -/
theorem tryPosition_of_same {b b' : Block} (h : SameFromWindow b b') (p : Params) :
    tryPosition p b.kpos.toNat b' = withHistory b'.ph (tryPosition p b.kpos.toNat b) := by
  obtain ⟨ph, rfl⟩ := exists_withHistory_of_same h
  have hm := preambleMatch_of_same h p
  have hs := frameByte_of_same h p 0
  have hf := frameAt_of_same h p
  rw [withHistory_ph] at hm hs hf
  unfold tryPosition
  rw [withHistory_ph, hm, hs]
  split
  · split
    · rfl
    · exact emit_withHistory (b := { b with cntPre := b.cntPre + 1 }) hf
  · rfl

/-- Blocks stay related under an effect that is the same on both, keeps both histories and moves the position on. -/
theorem same_advance {b b' c : Block} (h : SameFromWindow b b') (hph : c.ph = b.ph)
    (hk : b.kpos.toNat ≤ c.kpos.toNat) : SameFromWindow c (withHistory b'.ph c) where
  elsewhere := rfl
  lengths := by rw [hph]; exact h.lengths
  window := by
    intro j hj
    rw [hph]
    exact h.window j (hk.trans hj)

theorem tryLoop_keeps_same {p : Params} (hp : p.legal = true) :
    ∀ (n : Nat) {b b' : Block}, b.ph.length < 2 ^ 64 → SameFromWindow b b' →
      SameFromWindow (tryLoop p n b) (tryLoop p n b')
  | 0, _, _, _, h => h
  | n + 1, b, b', hl, h => by
    have hk' : b'.kpos = b.kpos := by rw [h.elsewhere]
    by_cases hc : b.kpos.toNat + window p ≤ b.ph.length
    · have hm := (tryPosition_moves hp b (hc.trans_lt hl)).1
      have hstep : SameFromWindow (tryPosition p b.kpos.toNat b) (tryPosition p b.kpos.toNat b') := by
        rw [tryPosition_of_same h p]
        exact same_advance h (tryPosition_ph ..) hm.le
      rw [tryLoop_complete n hc, tryLoop_complete n (by rwa [hk', h.lengths]), hk']
      exact tryLoop_keeps_same hp n (by rwa [tryPosition_ph]) hstep
    · rw [tryLoop_incomplete _ (by omega), tryLoop_incomplete _ (by rw [hk', h.lengths]; omega)]
      exact h

/-- Blocks stay related when the same power sample is stored in both: the new one is the same, the old ones are where
they were. -/
theorem storePair_keeps_same {b b' : Block} (h : SameFromWindow b b') (raw : BitVec 12) :
    SameFromWindow (storePair raw b) (storePair raw b') := by
  obtain ⟨ph, rfl⟩ := exists_withHistory_of_same h
  refine ⟨rfl, by simpa using h.lengths, fun j hj => ?_⟩
  have hl : ph.length = b.ph.length := h.lengths
  change (ph ++ [_]).getD j 0 = (b.ph ++ [_]).getD j 0
  by_cases hlt : j < b.ph.length
  · rw [List.getD_append _ _ _ _ (by omega), List.getD_append _ _ _ _ hlt]
    exact h.window j hj
  · rw [List.getD_append_right _ _ _ _ (by omega), List.getD_append_right _ _ _ _ (by omega), hl]
    rfl

theorem acceptSample_keeps_same {p : Params} (hp : p.legal = true) {b b' : Block} (hl : b.ph.length < 2 ^ 62)
    (h : SameFromWindow b b') (raw : BitVec 12) :
    SameFromWindow (acceptSample p raw b) (acceptSample p raw b') := by
  obtain ⟨ph, rfl⟩ := exists_withHistory_of_same h
  cases hv : b.pendV
  · rw [acceptSample_odd hv, acceptSample_odd (b := withHistory ph b) hv]
    exact ⟨rfl, h.lengths, h.window⟩
  · rw [acceptSample_pair hv, acceptSample_pair (b := withHistory ph b) hv]
    have hs := storePair_keeps_same h raw
    unfold tryPositions
    rw [hs.lengths]
    exact tryLoop_keeps_same hp _ (by simp; omega) hs

/-- No check of a command looks at the power history. -/
theorem errorRaised_withHistory (i : Instr) (ph : List Bits24) (b : Block) :
    errorRaised i (withHistory ph b) = errorRaised i b := by
  cases i <;> rfl

/-- A command outside the demodulator's input does not look at the power history. -/
theorem completion_withHistory {i : Instr} (hi : i.mnemonic ∉ [.sample, .demodReset, .softReset]) (p : Params)
    (ph : List Bits24) (b : Block) : completion i p (withHistory ph b) = withHistory ph (completion i p b) := by
  cases i with
  | sample raw => simp [Instr.mnemonic] at hi
  | demodReset => simp [Instr.mnemonic] at hi
  | softReset => simp [Instr.mnemonic] at hi
  | eos => cases he : b.ended <;> simp [completion, withHistory, he]
  | slicePop =>
    unfold completion
    rw [show (withHistory ph b).fifo = b.fifo from rfl]
    cases b.fifo <;> rfl
  | _ => rfl

theorem recordError_withHistory (c : ErrorCode) (w : Word) (ph : List Bits24) (b : Block) :
    (withHistory ph b).recordError c w = withHistory ph (b.recordError c w) := by
  cases h : b.err
  · rw [recordError_first c w b h, recordError_first c w (withHistory ph b) h]
    rfl
  · rw [recordError_later c w b h, recordError_later c w (withHistory ph b) h]
    rfl

theorem same_refl (b : Block) : SameFromWindow b b := ⟨rfl, rfl, fun _ _ => rfl⟩

theorem completion_keeps_same {p : Params} (hp : p.legal = true) {b b' : Block} (hl : b.ph.length < 2 ^ 62)
    (h : SameFromWindow b b') (i : Instr) : SameFromWindow (completion i p b) (completion i p b') := by
  by_cases hm : i.mnemonic ∈ [.sample, .demodReset, .softReset]
  · cases i with
    | sample raw => exact acceptSample_keeps_same hp hl h raw
    | demodReset =>
      obtain ⟨ph, rfl⟩ := exists_withHistory_of_same h
      exact same_refl b.newStream
    | softReset => exact same_refl Block.reset
    | _ => simp [Instr.mnemonic] at hm
  · obtain ⟨-, -, hph, hk, -⟩ := (completion_writesOnlyListed i p b).stream hm
    obtain ⟨ph, rfl⟩ := exists_withHistory_of_same h
    rw [completion_withHistory hm]
    exact same_advance h hph (by rw [hk])

theorem blockAfter_keeps_same {p : Params} (hp : p.legal = true) {b b' : Block} (hl : b.ph.length < 2 ^ 62)
    (h : SameFromWindow b b') (i : Instr) : SameFromWindow (blockAfter i p b) (blockAfter i p b') := by
  obtain ⟨ph, rfl⟩ := exists_withHistory_of_same h
  have he := errorRaised_withHistory i ph b
  cases hr : errorRaised i b with
  | none =>
    rw [blockAfter_of_none hr, blockAfter_of_none (he.trans hr)]
    exact completion_keeps_same hp hl h i
  | some c =>
    rw [blockAfter_of_error hr, blockAfter_of_error (he.trans hr), recordError_withHistory, recordError_frame]
    exact same_advance h rfl le_rfl

/-- No register shows the power history (20_memory.md R65). -/
theorem busRead_of_same {s : State} {b' : Block} (h : SameFromWindow s.blk b') (widx : WordIndex) :
    busRead widx { s with blk := b' } = busRead widx s := by
  unfold busRead
  rw [h.elsewhere]
  cases registerAt widx with
  | none => rfl
  | some r => cases r <;> rfl

/-- Settles O51: related blocks stay related under every command, and read the same. -/
theorem oldHistoryIsNeverRead : Obligations.OldHistoryIsNeverRead := by
  intro i s b' hp hl h
  have hsame := blockAfter_keeps_same hp hl h i
  exact ⟨_, _, exec_eq i s, exec_eq i { s with blk := b' }, hsame, busRead_of_same hsame⟩

/-! ### The invariants of the slicer and of the error record (10_state.md R36, R39(e), R39(f)) -/

/-- A buffer that is zero from its byte count on and whose contents have not been committed meets the slicer's
invariants. -/
theorem sliceInv_of_unchecked {b : Block} (hv : b.valid = false) (hc : b.checked = false) (hs : b.syn = 0)
    (hz : ∀ i, b.sbN.val ≤ i → i < 14 → bufferByte b.sb i = 0) : SliceInv b where
  validMeans := by simp [hv]
  zeroBeyond := hz
  checkedMeans := by simp [hc]
  uncheckedMeans := fun _ => ⟨hv, hs⟩

theorem bufferByte_of_lt (sb : Vector Byte 14) {i : Nat} (h : i < 14) : bufferByte sb i = sb[i] := by
  simp [bufferByte, Vector.getD, Array.getD_eq_getD_getElem?, h]

/-- An empty buffer is zero everywhere. -/
theorem bufferByte_empty {i : Nat} (h : i < 14) : bufferByte (Vector.replicate 14 0) i = 0 := by
  rw [bufferByte_of_lt _ h, Vector.getElem_replicate]

theorem sliceInv_reset : SliceInv Block.reset :=
  sliceInv_of_unchecked rfl rfl rfl fun _ _ => bufferByte_empty

/-- A block with the same buffer, timestamp and flags meets the slicer's invariants too. -/
theorem sliceInv_congr {b b' : Block} (h : SliceInv b) (hsb : b'.sb = b.sb ∧ b'.sbN = b.sbN) (hts : b'.sbTs = b.sbTs)
    (hf : b'.valid = b.valid ∧ b'.checked = b.checked ∧ b'.syn = b.syn) : SliceInv b' := by
  obtain ⟨hb, hn⟩ := hsb
  obtain ⟨hv, hc, hs⟩ := hf
  obtain ⟨h1, h2, h3, h4⟩ := h
  constructor <;> simpa only [hb, hn, hts, hv, hc, hs]

/-- A byte pushed at the end leaves the buffer zero beyond the new end. -/
theorem pushByte_keeps_sliceInv {b : Block} (h : SliceInv b) (hn : b.sbN.val ≠ 14) (byte : Byte) :
    SliceInv (b.pushByte byte) := by
  refine sliceInv_of_unchecked rfl rfl rfl fun i hi hlt => ?_
  have hlast := b.sbN.isLt
  have hval : (Fin.ofNat 15 (b.sbN.val + 1)).val = b.sbN.val + 1 := Nat.mod_eq_of_lt (by omega)
  rw [pushByte_sbN, hval] at hi
  have hne : b.sbN.val ≠ i := by omega
  rw [pushByte_sb, bufferByte_of_lt _ hlt, Vector.getElem_setIfInBounds_ne hlt hne, ← bufferByte_of_lt _ hlt]
  exact h.zeroBeyond i (by omega) hlt

/-- SLICE_COMMIT, when its checks pass, gives the flags their meaning (44_rawframe.md R241). -/
theorem recordSyndrome_keeps_sliceInv {b : Block} (h : SliceInv b) (hn : b.sbN = 14)
    (ht : b.sbTs.getLsbD 63 = false) : SliceInv (b.recordSyndrome (syndrome b.sb)) where
  validMeans hv := ⟨rfl, by simpa using hv, hn⟩
  zeroBeyond := h.zeroBeyond
  checkedMeans _ := ⟨hn, ht, rfl, rfl⟩
  uncheckedMeans hc := by simp at hc

/-- A popped candidate fills the buffer, so there is nothing beyond it. -/
theorem loadCandidate_sliceInv (c : Candidate) (b : Block) : SliceInv (b.loadCandidate c) :=
  sliceInv_of_unchecked rfl rfl rfl fun _ hi hlt => absurd hlt (Nat.not_lt.mpr hi)

/-- When SLICE_COMMIT raises no error (44_rawframe.md R241). -/
theorem errorRaised_sliceCommit_none {b : Block} (h : errorRaised .sliceCommit b = none) :
    b.sbN = 14 ∧ b.sbTs.getLsbD 63 = false := by
  rw [← sbN_eq_14_iff, ← Bool.not_eq_true, getLsbD_63_iff]
  simp only [errorRaised] at h
  split_ifs at h with ht hn
  exact ⟨hn, ht⟩

theorem blockAfter_keeps_sliceInv {b : Block} (h : SliceInv b) (i : Instr) (p : Params) :
    SliceInv (blockAfter i p b) := by
  obtain ⟨c, -, heq⟩ | ⟨hnone, heq⟩ := blockAfter_cases i p b <;> rw [heq]
  · rw [recordError_frame]
    exact sliceInv_congr h ⟨rfl, rfl⟩ rfl ⟨rfl, rfl, rfl⟩
  by_cases hm : i.mnemonic ∈ [.sliceClear, .slicePush, .sliceTs16, .slicePop, .sliceCommit, .softReset]
  case neg =>
    have w := completion_writesOnlyListed i p b
    exact sliceInv_congr h (w.buffer (not_listed_of_subset hm)) (w.sbTs (not_listed_of_subset hm)) (w.flags hm)
  cases i with
  | softReset => exact sliceInv_reset
  | sliceClear => exact sliceInv_of_unchecked rfl rfl rfl fun _ _ => bufferByte_empty
  | sliceTs16 imm16 => exact sliceInv_of_unchecked rfl rfl rfl h.zeroBeyond
  | slicePush byte => exact pushByte_keeps_sliceInv h (by simpa [errorRaised] using hnone) byte
  | sliceCommit =>
    obtain ⟨hn, ht⟩ := errorRaised_sliceCommit_none hnone
    exact recordSyndrome_keeps_sliceInv h hn ht
  | slicePop =>
    cases hq : b.fifo with
    | nil => simp [errorRaised, hq] at hnone
    | cons c rest =>
      rw [completion, hq]
      exact loadCandidate_sliceInv c _
  | _ => simp [Instr.mnemonic] at hm

theorem errorInv_reset : ErrorInv Block.reset := ⟨fun _ => ⟨rfl, rfl, rfl⟩, nofun⟩

/-- A block with the same error record meets its invariants too. -/
theorem errorInv_congr {b b' : Block} (h : ErrorInv b) (he : b'.err = b.err) (hm : b'.errMore = b.errMore)
    (hc : b'.errCode = b.errCode) (hw : b'.errCmd = b.errCmd) : ErrorInv b' := by
  obtain ⟨h1, h2⟩ := h
  constructor <;> simpa only [he, hm, hc, hw]

/-- Recording an error keeps the first one, or records the code of this one (60_exceptions.md R282). -/
theorem recordError_keeps_errorInv {b : Block} (h : ErrorInv b) (c : ErrorCode) (w : Word) :
    ErrorInv (b.recordError c w) := by
  refine ⟨by simp, fun _ => ?_⟩
  obtain ⟨-, heq⟩ | ⟨herr, heq⟩ := recordError_cases c w b <;> rw [heq]
  · exact ⟨c, rfl⟩
  · exact h.recordedCode herr

/-- Among the commands that raise no error, only ERR_CLEAR and the reset write the error record (10_state.md R23). -/
theorem completion_keeps_record {i : Instr} (hi : i.mnemonic ∉ [.errClear, .softReset]) (p : Params) (b : Block) :
    (completion i p b).err = b.err ∧ (completion i p b).errMore = b.errMore ∧
    (completion i p b).errCode = b.errCode ∧ (completion i p b).errCmd = b.errCmd := by
  cases i with
  | errClear => simp [Instr.mnemonic] at hi
  | softReset => simp [Instr.mnemonic] at hi
  | sample raw =>
    rw [completion, acceptSample_frame]
    simp
  | eos =>
    rw [completion]
    split <;> simp
  | slicePop =>
    rw [completion]
    split <;> simp
  | _ => simp [completion]

theorem completion_keeps_errorInv {b : Block} (h : ErrorInv b) (i : Instr) (p : Params) :
    ErrorInv (completion i p b) := by
  by_cases hi : i.mnemonic ∈ [.errClear, .softReset]
  · cases i with
    | errClear => exact ⟨fun _ => ⟨rfl, rfl, rfl⟩, nofun⟩
    | softReset => exact errorInv_reset
    | _ => simp [Instr.mnemonic] at hi
  · obtain ⟨he, hm, hc, hw⟩ := completion_keeps_record hi p b
    exact errorInv_congr h he hm hc hw

theorem blockAfter_keeps_errorInv {b : Block} (h : ErrorInv b) (i : Instr) (p : Params) :
    ErrorInv (blockAfter i p b) := by
  obtain ⟨c, -, heq⟩ | ⟨-, heq⟩ := blockAfter_cases i p b <;> rw [heq]
  · exact recordError_keeps_errorInv h c _
  · exact completion_keeps_errorInv h i p

/-! ### From commands to steps -/

/-- An invariant of the block that commands, illegal words and power-on reset keep is kept by every step: the block
after a step is one of these three, or the block before it. -/
theorem step_keeps_of_blockAfter {Q : Params → Block → Prop} {s t : State} (hs : step s = .next t)
    (h : Q s.params s.blk) (hexec : ∀ i, Q s.params (blockAfter i s.params s.blk))
    (hillegal : ∀ w, Q s.params (s.blk.recordError .illegal w)) (hreset : Q s.params Block.reset) :
    Q t.params t.blk := by
  refine step_keeps hs h (fun i s' b hp hb he => ?_) hillegal hreset
  have hblk : b = blockAfter i s'.params s'.blk := congrArg State.blk (eq_of_exec he)
  rw [hblk, hp, hb]
  exact hexec i

theorem recordError_keeps_sliceInv {b : Block} (h : SliceInv b) (c : ErrorCode) (w : Word) :
    SliceInv (b.recordError c w) := by
  rw [recordError_frame]
  exact sliceInv_congr h ⟨rfl, rfl⟩ rfl ⟨rfl, rfl, rfl⟩

theorem step_keeps_sliceInv {s t : State} (hs : step s = .next t) (h : SliceInv s.blk) : SliceInv t.blk :=
  step_keeps_of_blockAfter (Q := fun _ b => SliceInv b) hs h (fun i => blockAfter_keeps_sliceInv h i s.params)
    (recordError_keeps_sliceInv h .illegal) sliceInv_reset

theorem step_keeps_errorInv {s t : State} (hs : step s = .next t) (h : ErrorInv s.blk) : ErrorInv t.blk :=
  step_keeps_of_blockAfter (Q := fun _ b => ErrorInv b) hs h (fun i => blockAfter_keeps_errorInv h i s.params)
    (recordError_keeps_errorInv h .illegal) errorInv_reset

/-- Settles O56: both invariants are kept by every command, illegal word and reset. -/
theorem stepKeepsSliceAndErrorRecord : Obligations.StepKeepsSliceAndErrorRecord :=
  fun _ _ hs => ⟨step_keeps_sliceInv hs, step_keeps_errorInv hs⟩

/-! ### The candidate queue (10_state.md R31, R39(d), R39(g)) -/

/-- What the invariants say of a queue while the search stands at position `k`. -/
structure QueueInv (p : Params) (q : List Candidate) (k : Nat) : Prop where
  fits : q.length ≤ p.fifoDepth
  ordered : q.Pairwise fun e e' => e.ts.toNat < e'.ts.toNat
  before : ∀ e ∈ q, e.ts.toNat < 2 * dataStart p k
  spaced : p.resume = .skipFrame →
    (q.Pairwise fun e e' => e.ts.toNat + 2 * window p ≤ e'.ts.toNat) ∧
    ∀ e ∈ q, e.ts.toNat + 2 * window p ≤ 2 * dataStart p k
  formats : ∀ e ∈ q, downlinkFormat e.fb = 17 ∨ downlinkFormat e.fb = 18

theorem queueInv_nil (p : Params) (k : Nat) : QueueInv p [] k := by
  constructor <;> simp

/-- SLICE_POP takes the oldest entry and leaves the others as they were. -/
theorem queueInv_tail {p : Params} {c : Candidate} {q : List Candidate} {k : Nat} (h : QueueInv p (c :: q) k) :
    QueueInv p q k where
  fits := (Nat.le_succ _).trans h.fits
  ordered := h.ordered.of_cons
  before e he := h.before e (.tail _ he)
  spaced hr := ⟨(h.spaced hr).1.of_cons, fun e he => (h.spaced hr).2 e (.tail _ he)⟩
  formats e he := h.formats e (.tail _ he)

/-- The search may move on. -/
theorem queueInv_mono {p : Params} {q : List Candidate} {k k' : Nat} (h : QueueInv p q k) (hk : k ≤ k') :
    QueueInv p q k' where
  fits := h.fits
  ordered := h.ordered
  before e he := by
    have := h.before e he
    unfold dataStart at this ⊢
    omega
  spaced hr := ⟨(h.spaced hr).1, fun e he => by
    have := (h.spaced hr).2 e he
    unfold dataStart at this ⊢
    omega⟩
  formats := h.formats

theorem resumePosition_skipFrame {p : Params} (hr : p.resume = .skipFrame) (k : Nat) :
    resumePosition p k = k + window p := by
  rw [resumePosition, hr]

/-- A frame that begins at the position, when there is room for it, goes behind all others, and the search resumes
beyond it (43_demod.md R196, R197, R204). -/
theorem queueInv_enqueue {p : Params} (hp : p.legal = true) {q : List Candidate} {k : Nat} (h : QueueInv p q k)
    (hroom : q.length < p.fifoDepth) {e : Candidate} (hts : e.ts.toNat = 2 * dataStart p k)
    (hdf : downlinkFormat e.fb = 17 ∨ downlinkFormat e.fb = 18) :
    QueueInv p (q ++ [e]) (resumePosition p k) := by
  have hk := (resumePosition_gt hp k).1
  have h' := queueInv_mono h hk.le
  constructor
  case fits => simpa using hroom
  case ordered =>
    refine List.pairwise_append.mpr ⟨h.ordered, List.pairwise_singleton _ _, fun a ha x hx => ?_⟩
    rw [List.mem_singleton.mp hx, hts]
    exact h.before a ha
  case before =>
    refine List.forall_mem_append.mpr ⟨h'.before, fun x hx => ?_⟩
    rw [List.mem_singleton.mp hx, hts]
    unfold dataStart
    omega
  case spaced =>
    intro hr
    refine ⟨List.pairwise_append.mpr ⟨(h.spaced hr).1, List.pairwise_singleton _ _, fun a ha x hx => ?_⟩,
      List.forall_mem_append.mpr ⟨(h'.spaced hr).2, fun x hx => ?_⟩⟩
    · rw [List.mem_singleton.mp hx, hts]
      exact (h.spaced hr).2 a ha
    · rw [List.mem_singleton.mp hx, hts, resumePosition_skipFrame hr]
      unfold dataStart
      omega
  case formats =>
    refine List.forall_mem_append.mpr ⟨h.formats, fun x hx => ?_⟩
    rwa [List.mem_singleton.mp hx]

/-! ### The search keeps the queue in order -/

/-- A frame of length 14 has downlink format 17 or 18 (43_demod.md R194, 44_rawframe.md R250). -/
theorem downlinkFormat_frameAt {p : Params} {ph : List Bits24} {k : Nat}
    (h : frameSize (frameByte p ph k 0) = 14) :
    downlinkFormat (frameAt p ph k) = 17 ∨ downlinkFormat (frameAt p ph k) = 18 := by
  have hbits : downlinkFormat (frameAt p ph k) = formatBits (frameByte p ph k 0) := rfl
  rw [hbits]
  unfold frameSize at h
  split at h
  next hc => simpa [extendedSquitterFormats] using hc
  next => cases h

/-- A timestamp is the sample index itself while that is below the wrap (43_demod.md R199). -/
theorem timestamp_toNat {p : Params} {k : Nat} (hk : k + window p < 2 ^ 62) :
    (timestamp p k).toNat = 2 * dataStart p k := by
  rw [timestamp, BitVec.toNat_ofNat, Nat.mod_eq_of_lt]
  unfold window at hk
  unfold dataStart
  omega

theorem emit_keeps_queueInv {p : Params} (hp : p.legal = true) {k : Nat} {b : Block} (h : QueueInv p b.fifo k)
    (hk : k + window p < 2 ^ 62) (hs : frameSize (frameByte p b.ph k 0) = 14) :
    QueueInv p (emit p k b).fifo (resumePosition p k) := by
  rw [emit, setPosition_fifo]
  by_cases hroom : b.fifo.length < p.fifoDepth
  · rw [fifoPut_room hroom]
    exact queueInv_enqueue hp h hroom (timestamp_toNat hk) (downlinkFormat_frameAt hs)
  · rw [fifoPut_full hroom]
    exact queueInv_mono h (resumePosition_gt hp k).1.le

theorem tryPosition_keeps_queueInv {p : Params} (hp : p.legal = true) {k : Nat} {b : Block} (h : QueueInv p b.fifo k)
    (hk : k + window p < 2 ^ 62) : QueueInv p (tryPosition p k b).fifo (tryPosition p k b).kpos.toNat := by
  have hw := window_bounds hp
  have hr := resumePosition_gt hp k
  have hnext : (BitVec.ofNat 64 (k + 1)).toNat = k + 1 := Nat.mod_eq_of_lt (by omega)
  obtain ⟨-, ht⟩ | ⟨-, -, ht⟩ | ⟨-, hs, ht⟩ := tryPosition_cases p k b <;> rw [ht]
  · rw [setPosition_kpos, hnext]
    exact queueInv_mono h (Nat.le_succ k)
  · rw [setPosition_kpos, hnext]
    exact queueInv_mono h (Nat.le_succ k)
  · have hresume : (emit p k { b with cntPre := b.cntPre + 1 }).kpos.toNat = resumePosition p k :=
      Nat.mod_eq_of_lt (by omega)
    rw [hresume]
    exact emit_keeps_queueInv (b := { b with cntPre := b.cntPre + 1 }) hp h hk hs

/-- What the search keeps: a queue in order, and a position within the history. -/
def SearchInv (p : Params) (b : Block) : Prop :=
  QueueInv p b.fifo b.kpos.toNat ∧ b.kpos.toNat ≤ b.ph.length

theorem tryPositions_keeps_searchInv {p : Params} (hp : p.legal = true) {b : Block} (hl : b.ph.length < 2 ^ 62)
    (h : SearchInv p b) : SearchInv p (tryPositions p b) := by
  refine (tryLoop_induct (Q := fun b' => b'.ph.length < 2 ^ 62 ∧ SearchInv p b') ?_ _ b ⟨hl, h⟩).2
  rintro b' ⟨hl', hq, -⟩ hc
  have hlt := hc.trans_lt hl'
  have hm := tryPosition_moves hp b' (hlt.trans (by norm_num))
  rw [SearchInv, tryPosition_ph]
  exact ⟨hl', tryPosition_keeps_queueInv hp hq hlt, hm.2.trans hc⟩

/-- The loop ends only when no window is complete: its bound is no smaller than the rounds it can make, because each
moves the position on (43_demod.md R190, log 7). -/
theorem tryLoop_ends {p : Params} (hp : p.legal = true) :
    ∀ (n : Nat) {b : Block}, b.ph.length < 2 ^ 64 → b.ph.length < n + (b.kpos.toNat + window p) →
      (tryLoop p n b).ph.length < (tryLoop p n b).kpos.toNat + window p
  | 0, _, _, hn => by simpa using hn
  | n + 1, b, hl, hn => by
    by_cases hc : b.kpos.toNat + window p ≤ b.ph.length
    · have hm := (tryPosition_moves hp b (hc.trans_lt hl)).1
      rw [tryLoop_complete n hc]
      exact tryLoop_ends hp n (by rwa [tryPosition_ph]) (by rw [tryPosition_ph]; omega)
    · rw [tryLoop_incomplete _ (by omega)]
      omega

theorem tryPositions_end {p : Params} (hp : p.legal = true) {b : Block} (hl : b.ph.length < 2 ^ 64) :
    (tryPositions p b).ph.length < (tryPositions p b).kpos.toNat + window p :=
  tryLoop_ends hp _ hl (by omega)

@[simp] theorem tryPositions_ph (p : Params) (b : Block) : (tryPositions p b).ph = b.ph := by
  rw [tryPositions_frame]

@[simp] theorem tryPositions_nIn (p : Params) (b : Block) : (tryPositions p b).nIn = b.nIn := by
  rw [tryPositions_frame]

@[simp] theorem tryPositions_pendV (p : Params) (b : Block) : (tryPositions p b).pendV = b.pendV := by
  rw [tryPositions_frame]

/-! ### The invariants of the demodulator (10_state.md R39(a) to R39(d), R39(g)) -/

/-- The square of a recentred sample is at most 2^22. -/
theorem sample_sq_le (x : BitVec 12) : x.toInt * x.toInt ≤ 2 ^ 22 := by
  have := sample_bounds x
  nlinarith

/-- A power sample is at most 2^23 (43_demod.md R182). -/
theorem power_le (x y : BitVec 12) : (power x y).toNat ≤ 2 ^ 23 := by
  have hx := sample_sq_le x
  have hy := sample_sq_le y
  have hx0 := mul_self_nonneg x.toInt
  have hy0 := mul_self_nonneg y.toInt
  rw [power, BitVec.toNat_ofInt]
  omega

theorem searchInv_of_demodInv {p : Params} {b : Block} (h : DemodInv p b) : SearchInv p b :=
  ⟨⟨h.fifoFits, h.fifoOrdered, h.fifoBefore, h.fifoSpaced, h.fifoFormats⟩, h.positionWithin⟩

/-- The invariants from their parts: counting, the windows, the search and the history. -/
theorem demodInv_of_searchInv {p : Params} {b : Block} (hn : b.ph.length = b.nIn.toNat / 2)
    (hrun : b.ended = false → b.pendV.toNat = b.nIn.toNat % 2) (hend : b.ended = true → b.pendV = false)
    (hwin : b.ended = false → b.ph.length < b.kpos.toNat + window p) (hs : SearchInv p b)
    (hph : ∀ x ∈ b.ph, x.toNat ≤ 2 ^ 23) : DemodInv p b := by
  obtain ⟨⟨hfits, hord, hbefore, hspaced, hformats⟩, hpos⟩ := hs
  exact ⟨hn, hrun, hend, hwin, hfits, hord, hpos, hbefore, hspaced, hformats, hph⟩

/-- A stream just started meets them: nothing is counted, stored or queued (10_state.md R22, 43_demod.md R200). -/
theorem demodInv_of_fresh {p : Params} (hp : p.legal = true) {b : Block} (hn : b.nIn = 0) (hph : b.ph = [])
    (hv : b.pendV = false) (hq : b.fifo = []) (hk : b.kpos = 0) : DemodInv p b := by
  have hw := window_bounds hp
  refine demodInv_of_searchInv ?_ ?_ ?_ ?_ ⟨?_, ?_⟩ ?_
  · simp [hn, hph]
  · simp [hn, hv]
  · simp [hv]
  · simp [hph]; omega
  · rw [hq]; exact queueInv_nil p _
  · simp [hk]
  · simp [hph]

theorem demodInv_reset {p : Params} (hp : p.legal = true) : DemodInv p Block.reset :=
  demodInv_of_fresh hp rfl rfl rfl rfl rfl

/-- A block with the same stream, search and queue meets the demodulator's invariants too. -/
theorem demodInv_congr {p : Params} {b b' : Block} (h : DemodInv p b) (hn : b'.nIn = b.nIn) (hph : b'.ph = b.ph)
    (hv : b'.pendV = b.pendV) (he : b'.ended = b.ended) (hq : b'.fifo = b.fifo) (hk : b'.kpos = b.kpos) :
    DemodInv p b' := by
  refine demodInv_of_searchInv ?_ ?_ ?_ ?_ ?_ ?_ <;> simp only [SearchInv, hn, hph, hv, he, hq, hk]
  · exact h.powersPaired
  · exact h.pendRunning
  · exact h.pendEnded
  · exact h.windowsTried
  · exact searchInv_of_demodInv h
  · exact h.powersBounded

theorem recordError_keeps_demodInv {p : Params} {b : Block} (h : DemodInv p b) (c : ErrorCode) (w : Word) :
    DemodInv p (b.recordError c w) := by
  rw [recordError_frame]
  exact demodInv_congr h rfl rfl rfl rfl rfl rfl

/-- Far from its wrap the sample counter counts. -/
theorem nIn_succ_toNat {b : Block} (hfar : b.farFromWrap) : (b.nIn + 1).toNat = b.nIn.toNat + 1 := by
  unfold Block.farFromWrap at hfar
  have hone : (1 : BitVec 64).toNat = 1 := rfl
  rw [BitVec.toNat_add, hone, Nat.mod_eq_of_lt (by omega)]

/-- The first sample of a pair is counted and held. -/
theorem holdSample_keeps_demodInv {p : Params} {b : Block} (h : DemodInv p b) (hfar : b.farFromWrap)
    (he : b.ended = false) (hv : b.pendV = false) (raw : BitVec 12) : DemodInv p (acceptSample p raw b) := by
  have hparity := h.pendRunning he
  have hpaired := h.powersPaired
  have hnext := nIn_succ_toNat hfar
  have hsearch := searchInv_of_demodInv h
  rw [hv, Bool.toNat_false] at hparity
  rw [acceptSample_odd hv]
  refine demodInv_of_searchInv ?_ (fun _ => ?_) (fun hend => ?_) h.windowsTried hsearch
    h.powersBounded
  · show b.ph.length = (b.nIn + 1).toNat / 2
    omega
  · show true.toNat = (b.nIn + 1).toNat % 2
    rw [Bool.toNat_true]
    omega
  · exact absurd (he.symm.trans hend) nofun

/-- The second sample of a pair is counted, its power is stored, and the search runs to its end. -/
theorem pairSample_keeps_demodInv {p : Params} (hp : p.legal = true) {b : Block} (h : DemodInv p b)
    (hfar : b.farFromWrap) (he : b.ended = false) (hv : b.pendV = true) (raw : BitVec 12) :
    DemodInv p (acceptSample p raw b) := by
  have hparity := h.pendRunning he
  have hpaired := h.powersPaired
  obtain ⟨hqueue, hpos⟩ := searchInv_of_demodInv h
  have hnext := nIn_succ_toNat hfar
  rw [Block.farFromWrap] at hfar
  rw [hv, Bool.toNat_true] at hparity
  have hlen : (storePair raw b).ph.length = b.ph.length + 1 := by simp
  have hsearch : SearchInv p (storePair raw b) := ⟨hqueue, hpos.trans (by simp)⟩
  rw [acceptSample_pair hv]
  refine demodInv_of_searchInv ?_ ?_ ?_ (fun _ => tryPositions_end hp (by omega))
    (tryPositions_keeps_searchInv hp (by omega) hsearch) ?_
  · rw [tryPositions_ph, tryPositions_nIn, storePair_nIn, hlen]
    omega
  · rw [tryPositions_pendV, tryPositions_nIn, storePair_nIn, storePair_pendV, Bool.toNat_false]
    omega
  · rw [tryPositions_pendV, storePair_pendV]
    exact fun _ => rfl
  · rw [tryPositions_ph, storePair_ph]
    exact List.forall_mem_append.mpr ⟨h.powersBounded, fun x hx => by
      rw [List.mem_singleton.mp hx]
      exact power_le _ _⟩

theorem acceptSample_keeps_demodInv {p : Params} (hp : p.legal = true) {b : Block} (h : DemodInv p b)
    (hfar : b.farFromWrap) (he : b.ended = false) (raw : BitVec 12) : DemodInv p (acceptSample p raw b) := by
  cases hv : b.pendV
  · exact holdSample_keeps_demodInv h hfar he hv raw
  · exact pairSample_keeps_demodInv hp h hfar he hv raw

/-- The end of the stream discards an unpaired sample (43_demod.md R201). -/
theorem endStream_keeps_demodInv {p : Params} {b : Block} (h : DemodInv p b) :
    DemodInv p { b with ended := true, pendV := false } := by
  have hsearch := searchInv_of_demodInv h
  exact demodInv_of_searchInv h.powersPaired nofun (fun _ => rfl) nofun hsearch h.powersBounded

/-- Taking the oldest candidate leaves the rest of the demodulator alone (44_rawframe.md R251). -/
theorem popCandidate_keeps_demodInv {p : Params} {b : Block} (h : DemodInv p b) {c : Candidate} {q : List Candidate}
    (hq : b.fifo = c :: q) : DemodInv p (Block.loadCandidate c { b with fifo := q }) := by
  obtain ⟨hqueue, hpos⟩ := searchInv_of_demodInv h
  rw [hq] at hqueue
  exact demodInv_of_searchInv h.powersPaired h.pendRunning h.pendEnded h.windowsTried ⟨queueInv_tail hqueue, hpos⟩
    h.powersBounded

/-- Only a stream that has not ended accepts a sample (43_demod.md R185). -/
theorem errorRaised_sample_none {raw : BitVec 12} {b : Block} (h : errorRaised (.sample raw) b = none) :
    b.ended = false := by
  cases he : b.ended
  · rfl
  · simp [errorRaised, he] at h

theorem blockAfter_keeps_demodInv {p : Params} (hp : p.legal = true) {b : Block} (h : DemodInv p b)
    (hfar : b.farFromWrap) (i : Instr) : DemodInv p (blockAfter i p b) := by
  obtain ⟨c, -, heq⟩ | ⟨hnone, heq⟩ := blockAfter_cases i p b <;> rw [heq]
  · exact recordError_keeps_demodInv h c _
  by_cases hm : i.mnemonic ∈ [.sample, .eos, .slicePop, .demodReset, .softReset]
  case neg =>
    have w := completion_writesOnlyListed i p b
    obtain ⟨-, hn, hph, hk, -⟩ := w.stream (not_listed_of_subset hm)
    exact demodInv_congr h hn hph (w.pendV (not_listed_of_subset hm)) (w.ended (not_listed_of_subset hm))
      (w.fifo (not_listed_of_subset hm)) hk
  cases i with
  | sample raw => exact acceptSample_keeps_demodInv hp h hfar (errorRaised_sample_none hnone) raw
  | eos =>
    rw [completion]
    split
    · exact h
    · exact endStream_keeps_demodInv h
  | slicePop =>
    cases hq : b.fifo with
    | nil => simp [errorRaised, hq] at hnone
    | cons c q =>
      rw [completion, hq]
      exact popCandidate_keeps_demodInv h hq
  | demodReset => exact demodInv_of_fresh hp rfl rfl rfl rfl rfl
  | softReset => exact demodInv_reset hp
  | _ => simp [Instr.mnemonic] at hm

/-- Settles O57: the launch is kept by every step, and each of the three invariants by every command, illegal word
and reset. -/
theorem stepKeepsEveryInvariant : Obligations.StepKeepsEveryInvariant := by
  intro s t h hfar hs
  obtain ⟨hparams, hmasters⟩ := Scope.step_keeps_launch hs
  exact {
    oneMaster := hmasters ▸ h.oneMaster
    legalParams := hparams ▸ h.legalParams
    demod := step_keeps_of_blockAfter hs h.demod (blockAfter_keeps_demodInv h.legalParams h.demod hfar)
      (recordError_keeps_demodInv h.demod .illegal) (demodInv_reset h.legalParams)
    slice := step_keeps_sliceInv hs h.slice
    errors := step_keeps_errorInv hs h.errors }

/-! ### Runs (10_state.md R39) -/

theorem inv_launch {p : Params} (hp : p.legal = true) (events : List HostEvent) : Inv (launch p events) :=
  ⟨le_rfl, hp, demodInv_reset hp, sliceInv_reset, errorInv_reset⟩

/-- The error record never holds a reserved code (93_implementation_defined.md I11). -/
theorem reservedCode_of_errorInv {b : Block} (h : ErrorInv b) : reservedCode b.errCode = false := by
  cases he : b.err with
  | false =>
    obtain ⟨-, hcode, -⟩ := h.emptyRecord he
    rw [hcode]
    decide
  | true =>
    obtain ⟨c, hcode⟩ := h.recordedCode he
    rw [hcode]
    exact code_not_reserved c

theorem accepted_of_inv {s : State} (h : Inv s) : s.Accepted :=
  ⟨h.oneMaster, h.legalParams, reservedCode_of_errorInv h.errors⟩

/-- A turn never stops the machine. -/
theorem turn_next (s : State) : ∃ t, turn s = .next t := by
  obtain ⟨-, h⟩ | ⟨w, rest, -, h⟩ | ⟨_, _, _, -, -, h⟩ | ⟨_, _, -, h⟩ | ⟨_, -, h⟩ := turn_cases s <;> rw [h]
  case inr.inl =>
    obtain ⟨b, hb⟩ := executeCommand_next w { s with pending := rest }
    exact ⟨_, hb⟩
  all_goals exact ⟨_, rfl⟩

theorem step_next_of_inv {s : State} (h : Inv s) : ∃ t, step s = .next t := by
  rw [step_of_accepted (accepted_of_inv h)]
  exact turn_next s

theorem nIn_succ_le (x : BitVec 64) : (x + 1).toNat ≤ x.toNat + 1 := by
  rw [BitVec.toNat_add]
  exact Nat.mod_le _ _

/-- A command counts at most one sample. -/
theorem blockAfter_nIn_le (i : Instr) (p : Params) (b : Block) :
    (blockAfter i p b).nIn.toNat ≤ b.nIn.toNat + 1 := by
  by_cases hm : i.mnemonic ∈ [.sample, .demodReset, .softReset]
  · cases i with
    | sample raw =>
      obtain ⟨c, -, h⟩ | ⟨-, h⟩ := blockAfter_cases (.sample raw) p b <;> rw [h]
      · rw [recordError_frame]
        exact Nat.le_succ _
      · rw [completion, acceptSample_frame]
        exact nIn_succ_le b.nIn
    | demodReset => exact Nat.zero_le _
    | softReset => exact Nat.zero_le _
    | _ => simp [Instr.mnemonic] at hm
  · obtain ⟨-, hn, -⟩ := (blockAfter_writesOnlyListed i p b).stream hm
    rw [hn]
    exact Nat.le_succ _

theorem executeCommand_nIn_le {w : Word} {s t : State} (h : executeCommand w s = .next t) :
    t.blk.nIn.toNat ≤ s.blk.nIn.toNat + 1 ∧ t.pending = s.pending := by
  unfold executeCommand at h
  split at h
  · next i _ =>
    obtain rfl := eq_of_exec h
    exact ⟨blockAfter_nIn_le i s.params s.blk, rfl⟩
  · cases h
    refine ⟨?_, rfl⟩
    rw [recordError_frame]
    exact Nat.le_succ _

/-- The samples counted and the events still to come never grow together: each event counts at most one sample. -/
theorem step_budget {s t : State} (h : step s = .next t) :
    t.blk.nIn.toNat + t.pending.length ≤ s.blk.nIn.toNat + s.pending.length := by
  obtain ⟨-, ht⟩ := accepted_of_step h
  obtain ⟨hp, h'⟩ | ⟨w, rest, hp, h'⟩ | ⟨_, _, rest, -, hp, h'⟩ | ⟨_, rest, hp, h'⟩ | ⟨rest, hp, h'⟩ := turn_cases s <;>
    rw [h'] at ht <;> simp only [hp, List.length_cons]
  · cases ht
    simp [hp]
  · obtain ⟨hn, hrest⟩ := executeCommand_nIn_le ht
    have hcount : t.blk.nIn.toNat ≤ s.blk.nIn.toNat + 1 := hn
    rw [hrest]
    show _ + rest.length ≤ _
    omega
  · cases ht
    exact Nat.add_le_add_left (Nat.le_succ _) _
  · cases ht
    exact Nat.add_le_add_left (Nat.le_succ _) _
  · cases ht
    exact Nat.add_le_add (Nat.zero_le _) (Nat.le_succ _)

theorem run_succ {s t : State} (h : step s = .next t) (n : Nat) : core.run (n + 1) s = core.run n t := by
  have hcore : core.step s = .next t := h
  simp only [Host.Core.run, hcore]

/-- From a state that meets the invariants, and with fewer samples to come than the counter holds, every run goes on
and keeps them. -/
theorem run_keeps_inv : ∀ (n : Nat) {s : State}, Inv s → s.blk.nIn.toNat + s.pending.length < 2 ^ 62 →
    ∃ t, core.run n s = .next t ∧ t.params = s.params ∧ Inv t
  | 0, s, h, _ => ⟨s, rfl, rfl, h⟩
  | n + 1, s, h, hb => by
    obtain ⟨t, hs⟩ := step_next_of_inv h
    have hfar : s.blk.farFromWrap := (Nat.le_add_right _ _).trans_lt hb
    obtain ⟨u, hrun, hparams, hu⟩ :=
      run_keeps_inv n (stepKeepsEveryInvariant s t h hfar hs) ((step_budget hs).trans_lt hb)
    exact ⟨u, (run_succ hs n).trans hrun, hparams.trans (Scope.step_keeps_launch hs).1, hu⟩

/-- Settles O59: a launch meets the invariants, and so does every state its run reaches. -/
theorem everyRunKeepsR39 : Obligations.EveryRunKeepsR39 := by
  intro p events n hp hlen
  obtain ⟨t, hrun, hparams, h⟩ := run_keeps_inv n (inv_launch hp events) (by simpa [Block.reset] using hlen)
  obtain rfl : t.params = p := hparams
  exact ⟨t, hrun, h.demod.powersPaired, h.demod.pendRunning, h.demod.pendEnded, h.demod.windowsTried,
    h.demod.fifoFits, h.slice.validMeans, h.slice.zeroBeyond, h.demod.fifoOrdered⟩

end Sys2Proof.Proofs.BlockState
end

section
/-! PROOFS. The register bus (20_memory.md): what a step does with a bus event (R61, R62), what each register shows of
the state (R63 to R72), and the bytes of a big-endian word. -/

namespace Sys2Proof.Proofs.Memory

open Sys2Proof.Machine

/-! ### Bus events (20_memory.md R61, R62) -/

/-- An accepted machine performs the host's oldest event, taken off the host's list. -/
theorem step_of_pending {s : State} {e : HostEvent} {rest : List HostEvent} (h : s.Accepted)
    (hp : s.pending = e :: rest) : step s = perform e { s with pending := rest } := by
  simp only [step_of_accepted h, turn, present, hp]

theorem executeCommand_of_decode {w : Word} {i : Instr} (h : decode w = .command i) (s : State) :
    executeCommand w s = exec i s := by
  simp only [executeCommand, h]

/-- The host's own lists have no part in whether a launch is accepted. -/
theorem accepted_with_host_lists {s : State} (h : s.Accepted) (events : List HostEvent) (words : List Word) :
    State.Accepted { s with pending := events, rdata := words } :=
  ⟨h.oneMaster, h.legalParams, h.codeNotReserved⟩

/-- Of the host's events only a write to CMD and power-on reset change the block. -/
theorem event_of_block_change {s t : State} (hs : step s = .next t) (hne : t.blk ≠ s.blk) :
    ∃ rest, (∃ w, s.pending = .busWrite 0 w :: rest) ∨ s.pending = .powerOnReset :: rest := by
  obtain ⟨-, ht⟩ := accepted_of_step hs
  obtain ⟨-, h⟩ | ⟨w, rest, hp, -⟩ | ⟨_, _, _, -, -, h⟩ | ⟨_, _, -, h⟩ | ⟨rest, hp, -⟩ := turn_cases s
  case inr.inl => exact ⟨rest, .inl ⟨w, hp⟩⟩
  case inr.inr.inr.inr => exact ⟨rest, .inr hp⟩
  all_goals
    rw [h] at ht
    cases ht
    exact absurd rfl hne

/-- Settles O7: the accepted machine performs the write, whose word decodes to the command. -/
theorem stepRunsDecodedCommand : Obligations.StepRunsDecodedCommand :=
  fun _ _ _ _ h hp hd => (step_of_pending h hp).trans (executeCommand_of_decode hd _)

/-- Settles O8: the accepted machine performs the write, and `busWrite` looks at the index alone; the events that
leave the block are told apart by `turn_cases`. -/
theorem busWriteExecutesOrIsIgnored : Obligations.BusWriteExecutesOrIsIgnored :=
  ⟨fun _ _ _ _ h hp =>
    ⟨fun hw => (step_of_pending h hp).trans (if_pos hw), fun hw => (step_of_pending h hp).trans (if_neg hw)⟩,
   fun _ _ => event_of_block_change⟩

/-- A read appends the register map's word to what the host has read, and nothing else (20_memory.md R62). -/
theorem step_of_busRead {s : State} {widx : WordIndex} {rest : List HostEvent} (h : s.Accepted)
    (hp : s.pending = .busRead widx :: rest) :
    step s = .next { s with pending := rest, rdata := s.rdata ++ [busRead widx s] } :=
  step_of_pending h hp

/-- Settles O9: the second read starts from a machine that differs in the host's lists alone. -/
theorem busReadHasNoSideEffect : Obligations.BusReadHasNoSideEffect := by
  intro s widx rest h
  refine ⟨step_of_busRead h, fun hp => ?_⟩
  have hfirst := step_of_busRead h hp
  have hread := accepted_with_host_lists h (.busRead widx :: rest) (s.rdata ++ [busRead widx s])
  have hsecond := step_of_busRead hread rfl
  rw [BlockState.run_succ hfirst, BlockState.run_succ hsecond, List.append_assoc]
  rfl

/-! ### Fields narrower than their register (20_memory.md R63) -/

/-- Above a zero-extended field a word is 0. -/
theorem extractLsb'_setWidth_above {n : Nat} (field : BitVec n) (m k : Nat) :
    (field.setWidth m).extractLsb' n k = 0 := by
  ext i hi
  simp [BitVec.getLsbD_of_ge]

/-- A field register is 0 above its field, whether a RawFrame exists or not. -/
theorem extractLsb'_gated_above {n : Nat} (b : Block) (field : BitVec n) (k : Nat) :
    (gated b field).extractLsb' n k = 0 := by
  unfold gated
  split
  · exact extractLsb'_setWidth_above field 32 k
  · simp

/-- A field that holds a number of its width reads as that number. -/
theorem toNat_field {w : Word} {start len n : Nat} (h : w.extractLsb' start len = BitVec.ofNat len n)
    (hn : n < 2 ^ len) : (w.extractLsb' start len).toNat = n := by
  rw [h, BitVec.toNat_ofNat, Nat.mod_eq_of_lt hn]

theorem setWidth_eq_zero_append (x : Bits24) : x.setWidth 32 = 0#8 ++ x := BitVec.setWidth_eq_append (by decide)

/-! ### STATUS (20_memory.md R66) -/

theorem status_flags (b : Block) :
    b.status.getLsbD 0 = b.err ∧ b.status.getLsbD 1 = b.errMore ∧ b.status.getLsbD 8 = b.ended ∧
    b.status.getLsbD 9 = b.ovf ∧ b.status.getLsbD 10 = b.pendV ∧ b.status.getLsbD 16 = b.valid ∧
    b.status.getLsbD 17 = b.checked := by
  simp only [Block.status, BitVec.getLsbD_append]
  simp

theorem status_reserved (b : Block) :
    b.status.extractLsb' 2 2 = 0 ∧ b.status.extractLsb' 11 1 = 0 ∧ b.status.extractLsb' 18 2 = 0 ∧
    b.status.extractLsb' 24 8 = 0 := by
  simp (disch := decide) only [Block.status, BitVec.extractLsb'_append_eq_of_le,
    BitVec.extractLsb'_append_eq_of_add_le]
  simp

theorem status_numbers (b : Block) :
    b.status.extractLsb' 4 4 = b.errCode ∧ b.status.extractLsb' 12 4 = BitVec.ofNat 4 b.sbN.val ∧
    b.status.extractLsb' 20 4 = BitVec.ofNat 4 b.fifo.length := by
  simp (disch := decide) only [Block.status, BitVec.extractLsb'_append_eq_of_le,
    BitVec.extractLsb'_append_eq_of_add_le]
  simp

/-- Settles O11: a write to STATUS is an ignored write, its fields are those of the word `Block.status` packs, and it
shows the block alone, which only the events of `event_of_block_change` change. -/
theorem statusShowsTheFlags : Obligations.StatusShowsTheFlags := by
  refine ⟨fun v s => if_neg (by decide), fun s t hs hne => ?changes, fun s => ?fields⟩
  case changes => exact event_of_block_change hs fun hblk => hne (congrArg Block.status hblk)
  case fields =>
    obtain ⟨herr, hmore, hended, hovf, hpend, hvalid, hchecked⟩ := status_flags s.blk
    obtain ⟨h2, h11, h18, h24⟩ := status_reserved s.blk
    obtain ⟨hcode, hn, hcount⟩ := status_numbers s.blk
    refine ⟨herr, hmore, h2, hcode, hended, hovf, hpend, h11, ?sbN, hvalid, hchecked, h18, h24, fun hp hfits => ?count⟩
    case sbN => exact toNat_field hn (s.blk.sbN.isLt.trans (by decide))
    case count =>
      have hdepth := legal_bounds hp
      exact toNat_field hcount (by omega)

/-! ### PARAMS (20_memory.md R72) -/

theorem paramsWord_numbers (p : Params) :
    (paramsWord p).extractLsb' 0 8 = BitVec.ofNat 8 p.pPerUs ∧
    (paramsWord p).extractLsb' 8 4 = BitVec.ofNat 4 p.fifoDepth ∧
    (paramsWord p).extractLsb' 16 4 = BitVec.ofNat 4 p.preNum ∧
    (paramsWord p).extractLsb' 20 4 = BitVec.ofNat 4 p.preDen := by
  simp (disch := decide) only [paramsWord, BitVec.extractLsb'_append_eq_of_le, BitVec.extractLsb'_append_eq_of_add_le]
  simp

theorem paramsWord_zeros (p : Params) :
    (paramsWord p).extractLsb' 13 3 = 0 ∧ (paramsWord p).extractLsb' 24 8 = 0 := by
  simp (disch := decide) only [paramsWord, BitVec.extractLsb'_append_eq_of_le, BitVec.extractLsb'_append_eq_of_add_le]
  simp

theorem paramsWord_resume (p : Params) : (paramsWord p).getLsbD 12 = true ↔ p.resume = .oneSample := by
  simp only [paramsWord, BitVec.getLsbD_append]
  simp

/-- Settles O13: the bounds of a legal build make each parameter fit its field. -/
theorem paramsShowsTheBuild : Obligations.ParamsShowsTheBuild := by
  refine ⟨fun s hp => ?fields, fun s hp => ?reference⟩
  case fields =>
    obtain ⟨-, -, hu, hus, -, hnum, -, hden, -, hdepth⟩ := legal_bounds hp
    obtain ⟨h0, h8, h16, h20⟩ := paramsWord_numbers s.params
    obtain ⟨h13, h24⟩ := paramsWord_zeros s.params
    exact ⟨toNat_field h0 (by omega), toNat_field h8 (by omega), paramsWord_resume s.params, h13,
      toNat_field h16 (by omega), toNat_field h20 (by omega), h24⟩
  case reference =>
    show paramsWord s.params = _
    rw [hp]
    rfl

/-- Settles O10: CMD and the unmapped words are 0 by the register map; elsewhere a reserved bit lies above a
zero-extended field or in a zero part of the word. -/
theorem reservedAndUnmappedReadZero : Obligations.ReservedAndUnmappedReadZero := by
  intro s
  refine ⟨⟨rfl, rfl, rfl, rfl⟩, status_reserved s.blk, (paramsWord_zeros s.params).1, ?above24, ?above5,
    extractLsb'_gated_above s.blk (capability s.blk.sb) 29, BitVec.extractLsb'_append_eq_right⟩
  case above24 =>
    simp only [List.forall_mem_cons]
    exact ⟨extractLsb'_setWidth_above s.blk.crcR 32 8, extractLsb'_setWidth_above s.blk.crcRes 32 8,
      extractLsb'_gated_above s.blk (icaoAddress s.blk.sb) 8,
      extractLsb'_gated_above s.blk ((mePayload s.blk.sb).extractLsb' 32 24) 8,
      extractLsb'_gated_above s.blk (parityField s.blk.sb) 8, extractLsb'_setWidth_above s.blk.syn 32 8,
      extractLsb'_setWidth_above (s.blk.ext.extractLsb' 32 24) 32 8, List.forall_mem_nil _⟩
  case above5 =>
    simp only [List.forall_mem_cons]
    exact ⟨extractLsb'_gated_above s.blk (downlinkFormat s.blk.sb) 27,
      extractLsb'_gated_above s.blk (typeCode s.blk.sb) 27, List.forall_mem_nil _⟩

/-! ### The slice buffer's words (20_memory.md R70, 00_scope.md R11) -/

/-- One more byte at the end of a range of the buffer. -/
theorem byteRange_succ (sb : Vector Byte 14) {lo hi : Nat} (h : lo ≤ hi) (hlt : hi < 14) :
    byteRange sb lo (hi + 1) = byteRange sb lo hi ++ [bufferByte sb hi] := by
  have hget : (sb.toList.drop lo)[hi - lo]? = some (bufferByte sb hi) := by
    rw [List.getElem?_drop, Nat.add_sub_cancel' h, BlockState.bufferByte_of_lt sb hlt]
    simp [hlt]
  rw [byteRange, byteRange, Nat.sub_add_comm h, List.take_add_one, hget]
  rfl

/-- The big-endian value of one more byte: what was there, and the byte below it. -/
theorem ofNat_bigEndian_concat (n : Nat) (xs : List Byte) (x : Byte) :
    BitVec.ofNat (n + 8) (bigEndian (xs ++ [x])) = BitVec.ofNat n (bigEndian xs) ++ x := by
  apply BitVec.eq_of_toNat_eq
  have hx := x.isLt
  have hval : bigEndian (xs ++ [x]) = 2 ^ 8 * bigEndian xs + x.toNat := by
    rw [bigEndian_append, Nat.mul_comm]
    simp [bigEndian]
  have hdiv : (2 ^ 8 * bigEndian xs + x.toNat) / 2 ^ 8 = bigEndian xs := by omega
  have hmod : (2 ^ 8 * bigEndian xs + x.toNat) % 2 ^ 8 = x.toNat := by omega
  calc (BitVec.ofNat (n + 8) (bigEndian (xs ++ [x]))).toNat
      = (2 ^ 8 * bigEndian xs + x.toNat) % (2 ^ 8 * 2 ^ n) := by
        rw [BitVec.toNat_ofNat, hval, Nat.pow_add, Nat.mul_comm (2 ^ n)]
    _ = 2 ^ 8 * (bigEndian xs % 2 ^ n) + x.toNat := by rw [Nat.mod_mul, hdiv, hmod, Nat.add_comm]
    _ = (BitVec.ofNat n (bigEndian xs) ++ x).toNat := by
        rw [BitVec.toNat_append, ← Nat.shiftLeft_add_eq_or_of_lt hx, Nat.shiftLeft_eq, BitVec.toNat_ofNat,
          Nat.mul_comm]

theorem bigEndianRange_succ (n : Nat) (sb : Vector Byte 14) {lo hi : Nat} (h : lo ≤ hi) (hlt : hi < 14) :
    bigEndianRange (n + 8) sb lo (hi + 1) = bigEndianRange n sb lo hi ++ bufferByte sb hi := by
  rw [bigEndianRange, byteRange_succ sb h hlt, ofNat_bigEndian_concat, bigEndianRange]

/-- A range of one byte is that byte: nothing of width 0 stands before it. -/
theorem bigEndianRange_one (sb : Vector Byte 14) {lo : Nat} (h : lo < 14) :
    bigEndianRange 8 sb lo (lo + 1) = bufferByte sb lo :=
  (bigEndianRange_succ 0 sb le_rfl h).trans (BitVec.zero_width_append _ _)

theorem bigEndianRange_two (sb : Vector Byte 14) {lo : Nat} (h : lo + 1 < 14) :
    bigEndianRange 16 sb lo (lo + 2) = bufferByte sb lo ++ bufferByte sb (lo + 1) := by
  rw [bigEndianRange_succ 8 sb (by omega) h, bigEndianRange_one sb (by omega)]

theorem bigEndianRange_four (sb : Vector Byte 14) {lo : Nat} (h : lo + 3 < 14) :
    bigEndianRange 32 sb lo (lo + 4) =
      bufferByte sb lo ++ bufferByte sb (lo + 1) ++ bufferByte sb (lo + 2) ++ bufferByte sb (lo + 3) := by
  rw [bigEndianRange_succ 24 sb (by omega) h, bigEndianRange_succ 16 sb (by omega) (by omega),
    bigEndianRange_two sb (by omega)]

/-- Four bytes as a word, the first highest. -/
def wordOfBytes (byte : Nat → Byte) : Word := byte 0 ++ byte 1 ++ byte 2 ++ byte 3

theorem wordOfBytes_byte (byte : Nat → Byte) {i : Nat} (hi : i < 4) :
    (wordOfBytes byte).extractLsb' (24 - 8 * i) 8 = byte i := by
  interval_cases i <;>
    simp (disch := decide) only [wordOfBytes, BitVec.extractLsb'_append_eq_of_le,
      BitVec.extractLsb'_append_eq_of_add_le] <;>
    exact BitVec.extractLsb'_eq_self

/-- Past the buffer's end a byte reads 0: the places of SB_W3 that no byte fills. -/
theorem bufferByte_of_ge (sb : Vector Byte 14) {i : Nat} (h : 14 ≤ i) : bufferByte sb i = 0 := by
  simp [bufferByte, Vector.getD, Array.getD_eq_getD_getElem?, h]

theorem append_two_zero_bytes (x : BitVec 16) : x ++ 0#16 = x ++ 0#8 ++ 0#8 := by
  rw [BitVec.append_assoc]
  rfl

theorem busRead_sbW3 (s : State) :
    busRead 20 s = bufferByte s.blk.sb 12 ++ bufferByte s.blk.sb 13 ++ 0#16 :=
  congrArg (· ++ 0#16) (bigEndianRange_two s.blk.sb (lo := 12) (by decide))

/-- SB_W0 to SB_W3 show the buffer from byte 0 on; the two places below its 14 bytes are 0. -/
theorem busRead_sbW (s : State) {m : Nat} (hm : m < 4) :
    busRead (BitVec.ofNat 5 (17 + m)) s = wordOfBytes fun i => bufferByte s.blk.sb (4 * m + i) := by
  interval_cases m
  · exact bigEndianRange_four s.blk.sb (lo := 0) (by decide)
  · exact bigEndianRange_four s.blk.sb (lo := 4) (by decide)
  · exact bigEndianRange_four s.blk.sb (lo := 8) (by decide)
  · rw [wordOfBytes, bufferByte_of_ge s.blk.sb (i := 4 * 3 + 2) (by decide),
      bufferByte_of_ge s.blk.sb (i := 4 * 3 + 3) (by decide)]
    exact (busRead_sbW3 s).trans (append_two_zero_bytes _)

/-! ### The other registers (20_memory.md R67, R68, R71) -/

theorem highWord_append_lowWord (v : BitVec 64) : highWord v ++ lowWord v = v :=
  (BitVec.extractLsb'_append_extractLsb'_eq_extractLsb' rfl).trans BitVec.extractLsb'_eq_self

/-- ERR_CMD after an error: kept when an error was recorded before, else the word of this one (60_exceptions.md R282). -/
theorem recordError_errCmd (c : ErrorCode) (w : Word) (b : Block) :
    (b.recordError c w).errCmd = if b.err then b.errCmd else w := by
  obtain ⟨hb, h⟩ | ⟨hb, h⟩ := recordError_cases c w b <;> simp [h, hb]

/-- The low 24 bits of EXT_HI are bits 55 to 32 of `ext`. -/
theorem extHi_field (v : BitVec 56) :
    ((v.extractLsb' 32 24).setWidth 32).extractLsb' 0 24 = v.extractLsb' 32 24 :=
  (BitVec.extractLsb'_setWidth_of_le (by decide)).trans BitVec.extractLsb'_eq_self

theorem extHi_eq_zero_append (v : BitVec 56) :
    (v.extractLsb' 32 24).setWidth 32 = 0#8 ++ ((v.extractLsb' 32 24).setWidth 32).extractLsb' 0 24 := by
  rw [extHi_field]
  exact setWidth_eq_zero_append _

/-- A 56-bit value read as a high word of 24 bits and a low word. -/
theorem ext_words (v : BitVec 56) :
    ((v.extractLsb' 32 24).setWidth 32).extractLsb' 0 24 ++ v.extractLsb' 0 32 = v := by
  rw [extHi_field]
  exact (BitVec.extractLsb'_append_extractLsb'_eq_extractLsb' rfl).trans BitVec.extractLsb'_eq_self

/-- Settles O12: most registers are a field of the state as it is; two words make up a 64-bit or 56-bit element, and
the buffer's words are its bytes, 0 beyond the byte count by R39(f). -/
theorem registersShowTheState : Obligations.RegistersShowTheState := by
  refine ⟨fun s => ⟨rfl, fun h he => ?errCmd⟩, fun c w s => ⟨_, rfl, recordError_errCmd c w s.blk⟩, fun s => ?words,
    fun s => ⟨?w0, ?w1, ?w2, ?w3, fun m i hm hi hlt h hbeyond => ?beyond⟩⟩
  case errCmd =>
    obtain ⟨-, -, hcmd⟩ := h.emptyRecord he
    exact hcmd
  case words =>
    exact ⟨setWidth_eq_zero_append s.blk.crcR, setWidth_eq_zero_append s.blk.crcRes, setWidth_eq_zero_append s.blk.syn,
      highWord_append_lowWord s.blk.sbTs, extHi_eq_zero_append s.blk.ext, ext_words s.blk.ext,
      highWord_append_lowWord s.blk.nIn, highWord_append_lowWord s.blk.kpos, rfl, rfl, rfl⟩
  case w0 => exact busRead_sbW s (m := 0) (by decide)
  case w1 => exact busRead_sbW s (m := 1) (by decide)
  case w2 => exact busRead_sbW s (m := 2) (by decide)
  case w3 => exact busRead_sbW3 s
  case beyond =>
    rw [busRead_sbW s hm, wordOfBytes_byte _ hi]
    exact h.zeroBeyond (4 * m + i) hbeyond hlt

end Sys2Proof.Proofs.Memory
end

section
/-! PROOFS. The command encoding (30_encoding.md): the opcode map, the decoder and the encoder as inverses, illegal
words, the encoding examples, and LOAD_FRAME. -/

namespace Sys2Proof.Proofs.Encoding

open Sys2Proof.Machine

/-! ### The rows of the opcode map (30_encoding.md R93) -/

theorem selects_iff (m : Mnemonic) (w : Word) : m.selects w = true ↔ w &&& m.mask = m.matchWord := beq_iff_eq

/-- "At most one row matches any word": the rows that match have the word's opcode. -/
theorem row_unique {w : Word} {m m' : Mnemonic} (h : m.selects w = true) (h' : m'.selects w = true) : m = m' :=
  opcode_injective ((opcode_of_selects h).symm.trans (opcode_of_selects h'))

theorem forall_mnemonic_iff (p : Mnemonic → Prop) : (∀ m, p m) ↔ ∀ m ∈ Mnemonic.all, p m :=
  ⟨fun h m _ => h m, fun h m => h m m.mem_all⟩

/-- Settles O3: the table is the model's columns read off, and the rows that match a word share its opcode. -/
theorem opcodeMap : Obligations.OpcodeMap :=
  ⟨rfl, Mnemonic.mem_all, fun w m m' h h' => row_unique ((selects_iff m w).mpr h) ((selects_iff m' w).mpr h')⟩

/-! ### The decoder, case by case (30_encoding.md R96) -/

theorem decode_of_selects {m : Mnemonic} {w : Word} (h : m.selects w = true) : decode w = .command (m.build w) := by
  cases hfind : Mnemonic.all.find? (fun m => m.selects w) with
  | none => exact absurd h (List.find?_eq_none.mp hfind m m.mem_all)
  | some m' =>
    obtain rfl : m' = m := row_unique (List.find?_some (p := (Mnemonic.selects · w)) hfind) h
    simp only [decode, hfind]

theorem decode_of_no_row {w : Word} (h : ∀ m : Mnemonic, ¬ m.selects w = true) :
    decode w = .illegal (illegalReason w) := by
  have hfind : Mnemonic.all.find? (fun m => m.selects w) = none := List.find?_eq_none.mpr fun m _ => h m
  simp only [decode, hfind]

theorem decode_eq_command_iff {w : Word} {i : Instr} :
    decode w = .command i ↔ ∃ m : Mnemonic, m.selects w = true ∧ m.build w = i := by
  constructor
  · intro hd
    by_cases hrow : ∃ m : Mnemonic, m.selects w = true
    · obtain ⟨m, hm⟩ := hrow
      rw [decode_of_selects hm] at hd
      exact ⟨m, hm, Decoded.command.inj hd⟩
    · rw [decode_of_no_row (not_exists.mp hrow)] at hd
      cases hd
  · rintro ⟨m, hm, rfl⟩
    exact decode_of_selects hm

/-! ### Decoding and encoding are inverses (30_encoding.md R90 to R92) -/

/-- The word of a command selects the command's row, and the row reads the operands back. -/
theorem encodesRow : ∀ i : Instr, Laws.EncodesRow.Statement i
  | .nop => Laws.EncodesRow.nop
  | .errClear => Laws.EncodesRow.errClear
  | .softReset => Laws.EncodesRow.softReset
  | .crcInit => Laws.EncodesRow.crcInit
  | .crcBit b => Laws.EncodesRow.crcBit b
  | .crcByte byte => Laws.EncodesRow.crcByte byte
  | .crcFinal => Laws.EncodesRow.crcFinal
  | .sample raw => Laws.EncodesRow.sample raw
  | .eos => Laws.EncodesRow.eos
  | .demodReset => Laws.EncodesRow.demodReset
  | .sliceClear => Laws.EncodesRow.sliceClear
  | .slicePush byte => Laws.EncodesRow.slicePush byte
  | .sliceTs16 imm16 => Laws.EncodesRow.sliceTs16 imm16
  | .sliceCommit => Laws.EncodesRow.sliceCommit
  | .slicePop => Laws.EncodesRow.slicePop
  | .byteAt idx => Laws.EncodesRow.byteAt idx
  | .extract lo hi => Laws.EncodesRow.extract lo hi

theorem decode_encode (i : Instr) : decode (encode i) = .command i :=
  have ⟨hsel, hbuild⟩ := encodesRow i
  decode_eq_command_iff.mpr ⟨i.mnemonic, hsel, hbuild⟩

theorem mnemonic_build (m : Mnemonic) (w : Word) : (m.build w).mnemonic = m := by cases m <;> rfl

/-- How many low bits of a word are operand bits of this row (30_encoding.md R91). -/
def operandWidth (m : Mnemonic) : Nat := m.format.widths.sum

/-- The mask is every bit above the operand fields (30_encoding.md R93). -/
theorem mask_eq (m : Mnemonic) : m.mask = BitVec.allOnes 32 <<< operandWidth m := by cases m <;> rfl

/-- A row reads every operand bit: words it builds the same command from agree in all of them. -/
theorem operands_of_build {m : Mnemonic} {w w' : Word} (h : m.build w = m.build w') :
    w.extractLsb' 0 (operandWidth m) = w'.extractLsb' 0 (operandWidth m) := by
  cases m with
  | crcBit => exact Instr.crcBit.inj h
  | crcByte => exact Instr.crcByte.inj h
  | sample => exact Instr.sample.inj h
  | slicePush => exact Instr.slicePush.inj h
  | sliceTs16 => exact Instr.sliceTs16.inj h
  | byteAt => exact Instr.byteAt.inj h
  | extract =>
    obtain ⟨hlo, hhi⟩ := Instr.extract.inj h
    have halves (x : Word) : x.extractLsb' 4 4 ++ x.extractLsb' 0 4 = x.extractLsb' 0 8 :=
      BitVec.extractLsb'_append_extractLsb'_eq_extractLsb' rfl
    exact (halves w).symm.trans (.trans (by rw [hlo, hhi]) (halves w'))
  | _ => exact BitVec.of_length_zero.trans BitVec.of_length_zero.symm

/-- A row and the command it builds determine the word: the mask fixes the bits above the operand fields, the
command those in them. -/
theorem eq_of_selects_of_build {m : Mnemonic} {w w' : Word} (h : m.selects w = true) (h' : m.selects w' = true)
    (hb : m.build w = m.build w') : w = w' := by
  have hmask : w &&& m.mask = w' &&& m.mask := ((selects_iff m w).mp h).trans ((selects_iff m w').mp h').symm
  apply BitVec.eq_of_getLsbD_eq
  intro i hi
  by_cases hfield : i < operandWidth m
  · have hbit := congrArg (·.getLsbD i) (operands_of_build hb)
    simpa [hfield] using hbit
  · have hbit := congrArg (·.getLsbD i) hmask
    have hone : m.mask.getLsbD i = true := by
      have hsub : i - operandWidth m < 32 := by omega
      simp only [mask_eq, BitVec.getLsbD_shiftLeft, BitVec.getLsbD_allOnes, hi, hfield, hsub, decide_true, decide_false,
        Bool.not_false, Bool.and_self]
    simpa [hone] using hbit

theorem encode_build {m : Mnemonic} {w : Word} (h : m.selects w = true) : encode (m.build w) = w := by
  obtain ⟨hsel, hbuild⟩ := encodesRow (m.build w)
  rw [mnemonic_build] at hsel hbuild
  exact eq_of_selects_of_build hsel h hbuild

/-- Settles O2: a command's word selects its row, which reads the operands back; a word is determined by its row and
the command that row builds from it. -/
theorem decodeAndEncodeAgree : Obligations.DecodeAndEncodeAgree := by
  refine ⟨decode_encode, fun w i hd => ?_⟩
  obtain ⟨m, hm, rfl⟩ := decode_eq_command_iff.mp hd
  exact encode_build hm

/-! ### Command words and illegal words (30_encoding.md R95, R96) -/

theorem executeCommand_of_selects {m : Mnemonic} {w : Word} (h : m.selects w = true) (s : State) :
    executeCommand w s = exec (m.build w) s :=
  Memory.executeCommand_of_decode (decode_of_selects h) s

theorem executeCommand_of_no_row {w : Word} (h : ∀ m : Mnemonic, ¬ m.selects w = true) (s : State) :
    executeCommand w s = .next { s with blk := s.blk.recordError .illegal w } := by
  simp only [executeCommand, decode_of_no_row h]
  rfl

/-- A known opcode with a reserved bit set selects no row: the only one it could select is its opcode's. -/
theorem no_row_of_reserved_bit {m : Mnemonic} {w : Word} (hopc : w.extractLsb' 24 8 = m.opcode)
    (hm : w &&& m.mask ≠ m.matchWord) (m' : Mnemonic) : ¬ m'.selects w = true := by
  intro h'
  obtain rfl : m' = m := opcode_injective ((opcode_of_selects h').symm.trans hopc)
  exact hm ((selects_iff m' w).mp h')

theorem no_row_of_reserved_opcode {w : Word} (h : ∀ m : Mnemonic, m.opcode.toNat ≠ (w.extractLsb' 24 8).toNat)
    (m : Mnemonic) : ¬ m.selects w = true :=
  fun hm => h m (congrArg BitVec.toNat (opcode_of_selects hm).symm)

theorem illegalReason_of_reserved_opcode {w : Word}
    (h : ∀ m : Mnemonic, m.opcode.toNat ≠ (w.extractLsb' 24 8).toNat) : illegalReason w = .reservedOpcode := by
  refine if_neg fun hany => ?_
  obtain ⟨m, -, hm⟩ := List.any_eq_true.mp hany
  exact h m (congrArg BitVec.toNat (beq_iff_eq.mp hm))

/-- The opcode values of no row are the five ranges of 30_encoding.md R95. -/
theorem reserved_opcode_iff {opc : Nat} (h : opc < 256) :
    (∀ m : Mnemonic, m.opcode.toNat ≠ opc) ↔
      (0x03 ≤ opc ∧ opc ≤ 0x0F) ∨ (0x14 ≤ opc ∧ opc ≤ 0x1F) ∨ (0x23 ≤ opc ∧ opc ≤ 0x2F) ∨
      (0x35 ≤ opc ∧ opc ≤ 0x37) ∨ (0x3A ≤ opc ∧ opc ≤ 0xFF) := by
  rw [forall_mnemonic_iff]
  simp only [Mnemonic.all, List.forall_mem_cons, List.not_mem_nil, false_implies, implies_true, and_true,
    Mnemonic.opcode, BitVec.reduceToNat, ne_eq]
  omega

/-- Settles O4: a word with a row executes that row's command, by decode; one without records itself. -/
theorem everyWordIsOneCommandOrIllegal : Obligations.EveryWordIsOneCommandOrIllegal := by
  refine ⟨fun w s => ?_, fun m w s hopc hm => executeCommand_of_no_row (no_row_of_reserved_bit hopc hm) s,
    decode_of_selects (m := .nop) rfl⟩
  simp only [← selects_iff, ne_eq]
  by_cases hrow : ∃ m : Mnemonic, m.selects w = true
  · obtain ⟨m, hm⟩ := hrow
    exact .inl ⟨⟨m, hm, fun m' hm' => row_unique hm' hm⟩, fun m' hm' => executeCommand_of_selects hm' s⟩
  · have hnone := not_exists.mp hrow
    exact .inr ⟨hnone, executeCommand_of_no_row hnone s⟩

/-- Settles O5: the ranges are the values the 17 rows leave out, and no row can select a word with one of them. -/
theorem reservedOpcodesAreIllegal : Obligations.ReservedOpcodesAreIllegal := by
  refine fun w s => ⟨reserved_opcode_iff (w.extractLsb' 24 8).isLt, fun h => ⟨?_, ?_⟩⟩
  · rw [decode_of_no_row (no_row_of_reserved_opcode h), illegalReason_of_reserved_opcode h]
  · exact executeCommand_of_no_row (no_row_of_reserved_opcode h) s

/-- Settles O1: the eight words are computed and decode by the round trip; of the three illegal words one sets a
reserved bit of CRC_BYTE and two have reserved opcodes. -/
theorem encodingExamples : Obligations.EncodingExamples := by
  constructor
  · intro e he
    have hword : encode e.1 = e.2 := by
      revert e
      decide
    exact ⟨hword, hword ▸ decode_encode e.1⟩
  · intro w hw s
    simp only [List.mem_cons, List.not_mem_nil, or_false] at hw
    apply executeCommand_of_no_row
    obtain rfl | rfl | rfl := hw
    · exact no_row_of_reserved_bit (m := .crcByte) rfl (by decide)
    · exact no_row_of_reserved_opcode ((reserved_opcode_iff (by decide)).mpr (by decide))
    · exact no_row_of_reserved_opcode ((reserved_opcode_iff (by decide)).mpr (by decide))

/-! ### LOAD_FRAME (30_encoding.md R98) -/

/-- A command that completes hands its state to the ones after it. -/
theorem execAll_cons_of_next {i : Instr} {s t : State} (h : exec i s = .next t) (is : List Instr) :
    execAll (i :: is) s = execAll is t := by
  simp only [execAll, h]

theorem exec_slicePush_of_room (byte : Byte) {s : State} (h : s.blk.sbN ≠ 14) :
    exec (.slicePush byte) s = .next (s.setBlk (s.blk.pushByte byte)) := if_neg h

/-- The block with the first `n` bytes of `h` in an otherwise empty buffer, its timestamp 0 and nothing committed. -/
def partlyLoaded (h : Vector Byte 14) (n : Fin 15) (b : Block) : Block :=
  { b with sb := Vector.ofFn fun i => if i.val < n.val then h[i] else 0
           sbN := n, sbTs := 0, valid := false, checked := false, syn := 0 }

theorem partlyLoaded_zero (h : Vector Byte 14) (b : Block) : partlyLoaded h 0 b = b.clearBuffer := by
  have hsb : (Vector.ofFn fun i : Fin 14 => if i.val < (0 : Fin 15).val then h[i] else 0) = Vector.replicate 14 0 := by
    ext i hi : 1
    simp
  rw [partlyLoaded, hsb]
  rfl

theorem partlyLoaded_full (h : Vector Byte 14) (b : Block) :
    partlyLoaded h 14 b = { b with sb := h, sbN := 14, sbTs := 0, valid := false, checked := false, syn := 0 } := by
  have hsb : (Vector.ofFn fun i : Fin 14 => if i.val < (14 : Fin 15).val then h[i] else 0) = h := by
    ext i hi : 1
    simp
  rw [partlyLoaded, hsb]

/-- Pushing byte `n` of the frame loads one byte more. -/
theorem pushByte_partlyLoaded (h : Vector Byte 14) {n : Nat} (hn : n < 14) (b : Block) :
    (partlyLoaded h ⟨n, by omega⟩ b).pushByte h[n] = partlyLoaded h ⟨n + 1, by omega⟩ b := by
  have hcount : Fin.ofNat 15 (n + 1) = ⟨n + 1, by omega⟩ := Fin.ext (Nat.mod_eq_of_lt (by omega))
  have hsb : (Vector.ofFn fun i : Fin 14 => if i.val < n then h[i] else 0).setIfInBounds n h[n]
      = Vector.ofFn fun i : Fin 14 => if i.val < n + 1 then h[i] else 0 := by
    ext i hi : 1
    rw [Vector.getElem_setIfInBounds hi]
    by_cases hin : n = i
    · subst hin
      simp
    · have hlt : i < n + 1 ↔ i < n := by omega
      simp only [if_neg hin, Vector.getElem_ofFn, hlt]
  simp only [Block.pushByte, partlyLoaded, hcount, hsb]
  rfl

/-- The pushes of the bytes from `n` on complete the frame, whatever the place `n` they start at. -/
theorem execAll_pushes (h : Vector Byte 14) (s : State) {n : Nat} (hn : n ≤ 14) :
    execAll ((h.toList.drop n).map .slicePush) (s.setBlk (partlyLoaded h ⟨n, by omega⟩ s.blk))
      = .next (s.setBlk (partlyLoaded h 14 s.blk)) := by
  induction hn using Nat.decreasingInduction with
  | self =>
    rw [List.drop_of_length_le h.length_toList.le]
    rfl
  | of_succ n hlt ih =>
    have hroom : (partlyLoaded h ⟨n, by omega⟩ s.blk).sbN ≠ 14 := Fin.ne_of_val_ne hlt.ne
    rw [List.drop_eq_getElem_cons (by simpa using hlt), List.map_cons,
      execAll_cons_of_next (exec_slicePush_of_room _ hroom), Vector.getElem_toList, setBlk_blk,
      pushByte_partlyLoaded h hlt, setBlk_setBlk]
    exact ih

/-- Settles O6: SLICE_CLEAR leaves no byte of the frame in the buffer, and each push one more. -/
theorem loadFrameLoadsTheFrame : Obligations.LoadFrameLoadsTheFrame := by
  refine fun h s => ⟨s.setBlk (partlyLoaded h 14 s.blk), ?_, congrArg s.setBlk (partlyLoaded_full h s.blk)⟩
  have hclear : exec .sliceClear s = .next (s.setBlk (partlyLoaded h 0 s.blk)) := by
    rw [partlyLoaded_zero]
    rfl
  rw [execAll_cons_of_next hclear]
  exact execAll_pushes h s (Nat.zero_le 14)

end Sys2Proof.Proofs.Encoding
end

section
/-! PROOFS. The slice buffer and the BitString primitives (41_slice_buffer.md): SLICE_CLEAR, SLICE_PUSH, SLICE_TS16,
BYTE_AT, EXTRACT and the round trip between the last two. -/

namespace Sys2Proof.Proofs.SliceBuffer

open Sys2Proof.Machine

/-! ### A command by its checks (60_exceptions.md R281, R282) -/

/-- A command whose check fails records that error, with its own word, and does nothing else. -/
theorem exec_of_error {i : Instr} {s : State} {c : ErrorCode} (h : errorRaised i s.blk = some c) :
    exec i s = .next (s.setBlk (s.blk.recordError c (encode i))) := by
  rw [BlockState.exec_eq, BlockState.blockAfter_of_error h]

/-- A command whose checks pass completes. -/
theorem exec_of_no_error {i : Instr} {s : State} (h : errorRaised i s.blk = none) :
    exec i s = .next (s.setBlk (BlockState.completion i s.params s.blk)) := by
  rw [BlockState.exec_eq, BlockState.blockAfter_of_none h]

/-! ### SLICE_CLEAR (R120) -/

/-- Settles O29: emptying the buffer writes the six elements of R120 and no other. -/
theorem sliceClearEmpties : Obligations.SliceClearEmpties :=
  ⟨by decide, fun _ => rfl⟩

/-! ### SLICE_PUSH (R121) -/

theorem encode_slicePush (byte : Byte) : encode (.slicePush byte) = 0x31#8 ++ 0#16 ++ byte := by
  rw [BitVec.append_assoc]
  rfl

theorem bufferByte_setIfInBounds_self (sb : Vector Byte 14) {n : Nat} (hn : n < 14) (byte : Byte) :
    bufferByte (sb.setIfInBounds n byte) n = byte := by
  rw [BlockState.bufferByte_of_lt _ hn, Vector.getElem_setIfInBounds_self]

theorem bufferByte_setIfInBounds_ne (sb : Vector Byte 14) {n i : Nat} (h : i ≠ n) (byte : Byte) :
    bufferByte (sb.setIfInBounds n byte) i = bufferByte sb i := by
  obtain hi | hi := Nat.lt_or_ge i 14
  · rw [BlockState.bufferByte_of_lt _ hi, BlockState.bufferByte_of_lt _ hi, Vector.getElem_setIfInBounds_ne hi h.symm]
  · rw [Memory.bufferByte_of_ge _ hi, Memory.bufferByte_of_ge _ hi]

/-- Settles O30: below 14 bytes the push sets the byte at `sb_n` alone and counts one more without wrapping; at 14 its
check fails. -/
theorem slicePushAppends : Obligations.SlicePushAppends := by
  refine ⟨encode_slicePush, fun byte s => ⟨fun hroom => ?_, fun hfull => ?_⟩⟩
  · have hcount : (s.blk.pushByte byte).sbN.val = s.blk.sbN.val + 1 := Nat.mod_eq_of_lt (by omega)
    have hne : s.blk.sbN ≠ 14 := Fin.ne_of_val_ne hroom.ne
    exact ⟨(s.blk.pushByte byte).sb, (s.blk.pushByte byte).sbN, Encoding.exec_slicePush_of_room byte hne, hcount,
      bufferByte_setIfInBounds_self s.blk.sb hroom byte, fun i hi => bufferByte_setIfInBounds_ne s.blk.sb hi byte⟩
  · rw [← encode_slicePush]
    exact exec_of_error (if_pos hfull)

/-! ### SLICE_TS16 (R122) -/

theorem encode_sliceTs16 (imm16 : BitVec 16) : encode (.sliceTs16 imm16) = 0x32#8 ++ 0#8 ++ imm16 := by
  rw [BitVec.append_assoc]
  rfl

theorem toNat_shiftTimestamp (imm16 : BitVec 16) (b : Block) :
    (b.shiftTimestamp imm16).sbTs.toNat = (b.sbTs.toNat * 2 ^ 16 + imm16.toNat) % 2 ^ 64 := by
  rw [shiftTimestamp_sbTs, BitVec.toNat_add, BitVec.toNat_shiftLeft, Nat.shiftLeft_eq, BitVec.toNat_setWidth,
    ← Nat.add_mod]

/-- The number of two parts side by side: the left one moved up by the width of the right one. -/
theorem toNat_append_eq_add {m n : Nat} (x : BitVec m) (y : BitVec n) :
    (x ++ y).toNat = x.toNat * 2 ^ n + y.toNat := by
  rw [BitVec.toNat_append, ← Nat.shiftLeft_add_eq_or_of_lt y.isLt, Nat.shiftLeft_eq]

theorem exec_sliceTs16 (imm16 : BitVec 16) (s : State) :
    exec (.sliceTs16 imm16) s = .next (s.setBlk (s.blk.shiftTimestamp imm16)) := rfl

/-- Four shifts push the earlier timestamp out: it is multiplied by 2^64, which is 0 modulo 2^64. -/
theorem sbTs_of_four_shifts (a b c d : BitVec 16) (blk : Block) :
    ((((blk.shiftTimestamp a).shiftTimestamp b).shiftTimestamp c).shiftTimestamp d).sbTs = a ++ b ++ c ++ d := by
  apply BitVec.eq_of_toNat_eq
  simp only [toNat_shiftTimestamp, toNat_append_eq_add]
  omega

/-- Four shifts touch the timestamp and the frame's flags alone. -/
theorem four_shifts_eq (a b c d : BitVec 16) (blk : Block) :
    (((blk.shiftTimestamp a).shiftTimestamp b).shiftTimestamp c).shiftTimestamp d =
      { blk with sbTs := a ++ b ++ c ++ d, valid := false, checked := false, syn := 0 } := by
  rw [← sbTs_of_four_shifts a b c d blk]
  rfl

/-- Settles O31: one shift is R122's arithmetic, and four leave the four halves of the timestamp. -/
theorem sliceTs16Shifts : Obligations.SliceTs16Shifts := by
  refine ⟨encode_sliceTs16, fun imm16 s => ⟨_, exec_sliceTs16 imm16 s, toNat_shiftTimestamp imm16 s.blk⟩,
    fun a b c d s => ?_⟩
  simp only [Encoding.execAll_cons_of_next (exec_sliceTs16 _ _), setBlk_blk, setBlk_setBlk, four_shifts_eq]
  rfl

/-! ### BYTE_AT (R123) -/

theorem encode_byteAt (idx : BitVec 4) : encode (.byteAt idx) = 0x38#8 ++ 0#20 ++ idx := by
  rw [BitVec.append_assoc]
  rfl

theorem exec_byteAt_of_lt {idx : BitVec 4} {s : State} (h : idx.toNat < s.blk.sbN.val) :
    exec (.byteAt idx) s =
      .next { s with blk := { s.blk with ext := (bufferByte s.blk.sb idx.toNat).setWidth 56 } } :=
  exec_of_no_error (if_pos h)

/-- A byte in `ext` keeps its unsigned value: it is zero-extended. -/
theorem toNat_byte_in_ext (byte : Byte) : (byte.setWidth 56).toNat = byte.toNat :=
  BitVec.toNat_setWidth_of_le (by decide)

/-- Settles O32: the bound check of R123 decides between the byte and `E_INDEX`. -/
theorem byteAtReadsOneByte : Obligations.ByteAtReadsOneByte := by
  refine ⟨encode_byteAt, fun idx s => ⟨fun h => ⟨_, exec_byteAt_of_lt h, toNat_byte_in_ext _⟩, fun h => ?_⟩⟩
  rw [← encode_byteAt]
  exact exec_of_error (if_neg h.not_gt)

/-! ### EXTRACT (R124) -/

theorem encode_extract (lo hi : BitVec 4) : encode (.extract lo hi) = 0x39#8 ++ 0#16 ++ hi ++ lo := by
  show 0x39#8 ++ (0#16 ++ hi ++ lo) = _
  rw [BitVec.append_assoc, BitVec.append_assoc, BitVec.append_assoc]
  rfl

/-- `be` of `n` bytes of the buffer as a sum: each byte at its place (00_scope.md R11). -/
theorem bigEndian_byteRange (sb : Vector Byte 14) {lo n : Nat} (h : lo + n ≤ 14) :
    bigEndian (byteRange sb lo (lo + n)) =
      ∑ j ∈ Finset.range n, (bufferByte sb (lo + j)).toNat * 2 ^ (8 * (n - 1 - j)) := by
  induction n with
  | zero => simp [byteRange, bigEndian]
  | succ n ih =>
    have hplace : ∀ j ∈ Finset.range n,
        (bufferByte sb (lo + j)).toNat * 2 ^ (8 * (n - 1 - j)) * 256 =
          (bufferByte sb (lo + j)).toNat * 2 ^ (8 * (n + 1 - 1 - j)) := by
      intro j hj
      have hexp : 8 * (n + 1 - 1 - j) = 8 * (n - 1 - j) + 8 := by
        rw [Finset.mem_range] at hj
        omega
      rw [hexp, pow_add, ← mul_assoc]
      rfl
    rw [← Nat.add_assoc, Memory.byteRange_succ sb (Nat.le_add_right lo n) (by omega), bigEndian_append,
      ih (by omega), List.length_singleton, pow_one, Finset.sum_mul, Finset.sum_congr rfl hplace,
      Finset.sum_range_succ]
    simp [bigEndian]

/-- Fewer than 8 bytes fit the 56 bits of `ext`, so nothing is cut off. -/
theorem toNat_bigEndianRange (sb : Vector Byte 14) {lo hi : Nat} (hle : lo ≤ hi) (hhi : hi ≤ 14)
    (hspan : hi - lo < 8) :
    (bigEndianRange 56 sb lo hi).toNat =
      ∑ j ∈ Finset.range (hi - lo), (bufferByte sb (lo + j)).toNat * 2 ^ (8 * (hi - lo - 1 - j)) := by
  have hlt : bigEndian (byteRange sb lo hi) < 2 ^ 56 :=
    calc bigEndian (byteRange sb lo hi)
        < 256 ^ (byteRange sb lo hi).length := bigEndian_lt _
      _ = 256 ^ (hi - lo) := by rw [byteRange_length sb lo hi hhi]
      _ ≤ 256 ^ 7 := Nat.pow_le_pow_right (by decide) (by omega)
      _ = 2 ^ 56 := by decide
  rw [bigEndianRange, BitVec.toNat_ofNat, Nat.mod_eq_of_lt hlt, ← bigEndian_byteRange sb (by omega),
    Nat.add_sub_cancel' hle]

theorem exec_extract_of_range {lo hi : BitVec 4} {s : State} (hle : lo.toNat ≤ hi.toNat)
    (hhi : hi.toNat ≤ s.blk.sbN.val) (hspan : hi.toNat - lo.toNat < 8) :
    exec (.extract lo hi) s =
      .next { s with blk := { s.blk with ext := bigEndianRange 56 s.blk.sb lo.toNat hi.toNat } } := by
  have hnone : errorRaised (.extract lo hi) s.blk = none := by
    rw [errorRaised, if_neg (by omega), if_neg (by omega)]
  exact exec_of_no_error hnone

/-- Settles O33: R124's checks in their order, then the sum of the bytes at their places. -/
theorem extractReadsARange : Obligations.ExtractReadsARange := by
  refine ⟨encode_extract, fun lo hi s => ?_⟩
  rw [← encode_extract]
  refine ⟨fun hrange => exec_of_error (if_pos hrange), fun hle hhi hspan => exec_of_error ?_, fun hle hhi hspan =>
    ⟨_, exec_extract_of_range hle hhi hspan, toNat_bigEndianRange s.blk.sb hle (by omega) hspan⟩⟩
  rw [errorRaised, if_neg (by omega), if_pos (by omega)]

/-! ### EXTRACT from BYTE_AT (R126) -/

/-- Settles O34: BYTE_AT leaves in `ext` the very bytes whose sum EXTRACT leaves there; inside the buffer an index fits
its 4 bits. -/
theorem extractIsByteAtShifted : Obligations.ExtractIsByteAtShifted := by
  intro lo hi s hle hhi hspan
  refine ⟨_, exec_extract_of_range hle hhi hspan, fun j => (bufferByte s.blk.sb (lo.toNat + j)).setWidth 56,
    fun j hj => ?_, ?_⟩
  · have hidx : (BitVec.ofNat 4 (lo.toNat + j)).toNat = lo.toNat + j := Nat.mod_eq_of_lt (by omega)
    refine ⟨_, exec_byteAt_of_lt (by omega), ?_⟩
    rw [hidx]
  · simp only [toNat_byte_in_ext]
    exact toNat_bigEndianRange s.blk.sb hle (by omega) hspan

end Sys2Proof.Proofs.SliceBuffer
end

section
/-! PROOFS. The CRC-24 generator (42_crc24.md): the bit step as arithmetic and as a polynomial (R151, R153), the
commands of the unit (R154 to R157), linearity (R161), the two parity checks (R158, R159), single-bit errors (R160) and
re-signed frames (R162). -/

namespace Sys2Proof.Proofs.Crc24

open Sys2Proof.Machine
open Polynomial (X Monic)

/-! ### The bit step, by the bit shifted out (R151) -/

/-- The register shifted left by one with the bit at position 0, before any reduction. -/
def shiftIn (r : Bits24) (b : Bool) : Bits24 := (r.setWidth 23).concat b

theorem crcStep_eq (r : Bits24) (b : Bool) :
    crcStep r b = if r.getLsbD 23 then shiftIn r b ^^^ generator else shiftIn r b := rfl

theorem crcStep_of_zero_out {r : Bits24} (h : r.getLsbD 23 = false) (b : Bool) : crcStep r b = shiftIn r b := by
  rw [crcStep_eq, h]
  rfl

theorem crcStep_of_one_out {r : Bits24} (h : r.getLsbD 23 = true) (b : Bool) :
    crcStep r b = shiftIn r b ^^^ generator := by
  rw [crcStep_eq, h]
  rfl

theorem toNat_shiftIn (r : Bits24) (b : Bool) : (shiftIn r b).toNat = (2 * r.toNat + b.toNat) % 2 ^ 24 := by
  have hb : b.toNat < 2 := b.toNat_lt
  rw [shiftIn, BitVec.toNat_concat, BitVec.toNat_setWidth]
  omega

theorem toNat_crcStep_of_zero_out {r : Bits24} (h : r.getLsbD 23 = false) (b : Bool) :
    (crcStep r b).toNat = (2 * r.toNat + b.toNat) % 2 ^ 24 := by
  rw [crcStep_of_zero_out h, toNat_shiftIn]

theorem toNat_crcStep_of_one_out {r : Bits24} (h : r.getLsbD 23 = true) (b : Bool) :
    (crcStep r b).toNat = (2 * r.toNat + b.toNat) % 2 ^ 24 ^^^ 0xFFF409 := by
  rw [crcStep_of_one_out h, BitVec.toNat_xor, toNat_shiftIn]
  rfl

/-- A 0 is shifted out exactly when the register is below 2^23. -/
theorem zero_out_iff (r : Bits24) : r.getLsbD 23 = false ↔ r.toNat < 2 ^ 23 := by
  rw [← BitVec.msb_eq_getLsbD_last, BitVec.msb_eq_false_iff_two_mul_lt]
  omega

/-! ### Bits and registers as polynomials over GF(2) -/

/-- `S(x)` of a bit sequence, the first bit the leading coefficient (R153). -/
noncomputable def bitPoly (bits : List Bool) : Polynomial (ZMod 2) :=
  bits.foldl (fun acc b => acc * X + (if b then 1 else 0)) 0

/-- The bits of the register, most significant first. -/
def regBits (r : Bits24) : List Bool := (List.range 24).map fun i => r.getMsbD i

/-- `r(x)`. -/
noncomputable def regPoly (r : Bits24) : Polynomial (ZMod 2) := bitPoly (regBits r)

/-- `P(x) = x^24 + G(x)` (R150). -/
noncomputable def genPoly : Polynomial (ZMod 2) := X ^ 24 + regPoly generator

@[simp] theorem bitPoly_nil : bitPoly [] = 0 := rfl

theorem bitPoly_concat (bits : List Bool) (b : Bool) :
    bitPoly (bits ++ [b]) = bitPoly bits * X + (if b then 1 else 0) := by
  simp [bitPoly]

theorem bitPoly_append (xs ys : List Bool) : bitPoly (xs ++ ys) = bitPoly xs * X ^ ys.length + bitPoly ys := by
  induction ys using List.reverseRecOn with
  | nil => simp
  | append_singleton ys y ih =>
    rw [← List.append_assoc, bitPoly_concat, bitPoly_concat, ih, List.length_append, List.length_singleton]
    ring

theorem bitPoly_cons (b : Bool) (bits : List Bool) :
    bitPoly (b :: bits) = (if b then 1 else 0) * X ^ bits.length + bitPoly bits := by
  rw [← List.singleton_append, bitPoly_append, ← List.nil_append [b], bitPoly_concat]
  simp

theorem bitPoly_zeros (n : Nat) : bitPoly (List.replicate n false) = 0 := by
  induction n with
  | zero => rfl
  | succ n ih => rw [List.replicate_succ, bitPoly_cons, ih]; simp

theorem degree_bitPoly_lt (bits : List Bool) : (bitPoly bits).degree < bits.length := by
  induction bits with
  | nil => simp
  | cons b bits ih =>
    have hlen : (bits.length : WithBot ℕ) < (b :: bits).length := WithBot.coe_lt_coe.mpr (Nat.lt_succ_self _)
    have hlead : ((if b then 1 else 0) * X ^ bits.length : Polynomial (ZMod 2)).degree ≤ bits.length := by
      cases b <;> simp
    rw [bitPoly_cons]
    exact (Polynomial.degree_add_le _ _).trans_lt (max_lt (hlead.trans_lt hlen) (ih.trans hlen))

theorem bitPoly_map_xor {α : Type} (f g : α → Bool) (l : List α) :
    bitPoly (l.map fun i => f i ^^ g i) = bitPoly (l.map f) + bitPoly (l.map g) := by
  have hbit (a b : Bool) :
      (if (a ^^ b) then 1 else 0 : Polynomial (ZMod 2)) = (if a then 1 else 0) + (if b then 1 else 0) := by
    cases a <;> cases b <;> simp [CharTwo.add_self_eq_zero]
  induction l with
  | nil => simp
  | cons i l ih =>
    simp only [List.map_cons, bitPoly_cons, List.length_map, ih, hbit]
    ring

theorem length_regBits (r : Bits24) : (regBits r).length = 24 := by simp [regBits]

theorem getElem_regBits {r : Bits24} {i : Nat} (h : i < (regBits r).length) : (regBits r)[i] = r.getMsbD i := by
  simp [regBits]

theorem regPoly_zero : regPoly 0 = 0 := bitPoly_zeros 24

theorem regPoly_xor (r r' : Bits24) : regPoly (r ^^^ r') = regPoly r + regPoly r' := by
  simp only [regPoly, regBits, BitVec.getMsbD_xor, bitPoly_map_xor]

theorem degree_regPoly_lt (r : Bits24) : (regPoly r).degree < 24 := by
  have h := degree_bitPoly_lt (regBits r)
  rwa [length_regBits] at h

theorem genPoly_monic : Monic genPoly := Polynomial.monic_X_pow_add (degree_regPoly_lt generator)

theorem degree_genPoly : genPoly.degree = 24 := by
  have h : (regPoly generator).degree < (X ^ 24 : Polynomial (ZMod 2)).degree := by
    rw [Polynomial.degree_X_pow]
    exact degree_regPoly_lt generator
  rw [genPoly, Polynomial.degree_add_eq_left_of_degree_lt h, Polynomial.degree_X_pow]
  rfl

/-- `P` in full, as R150 writes it out. -/
theorem genPoly_eq :
    genPoly = X ^ 24 + X ^ 23 + X ^ 22 + X ^ 21 + X ^ 20 + X ^ 19 + X ^ 18 + X ^ 17 + X ^ 16 + X ^ 15 + X ^ 14
      + X ^ 13 + X ^ 12 + X ^ 10 + X ^ 3 + 1 := by
  have hbits : regBits generator =
      [true, true, true, true, true, true, true, true, true, true, true, true,
       false, true, false, false, false, false, false, false, true, false, false, true] := by decide
  rw [genPoly, regPoly, hbits]
  simp only [bitPoly, List.foldl_cons, List.foldl_nil, if_true, Bool.false_eq_true, if_false]
  ring

/-! ### The bit step modulo `P` (R151, R153) -/

theorem getMsbD_shiftIn {r : Bits24} {b : Bool} {i : Nat} (h : i < 24) :
    (shiftIn r b).getMsbD i = if i = 23 then b else r.getMsbD (i + 1) := by
  rw [BitVec.getMsbD_eq_getLsbD, BitVec.getMsbD_eq_getLsbD, shiftIn, BitVec.getLsbD_concat]
  split_ifs with hlow hlast hlast
  · simp [h]
  · omega
  · omega
  · have hpos : 24 - 1 - i - 1 = 24 - 1 - (i + 1) := by omega
    have hlow : 24 - 1 - (i + 1) < 23 := by omega
    have hnext : i + 1 < 24 := by omega
    rw [BitVec.getLsbD_setWidth, hpos]
    simp only [h, hlow, hnext, decide_true, Bool.true_and]

/-- Shifting moves the top bit out in front of the register. -/
theorem regBits_append_bit (r : Bits24) (b : Bool) :
    regBits r ++ [b] = r.getLsbD 23 :: regBits (shiftIn r b) := by
  refine List.ext_getElem (by simp [length_regBits]) fun i hi hi' => ?_
  rw [List.length_append, List.length_singleton, length_regBits] at hi
  rcases i with _ | i
  · simp [regBits, BitVec.getMsbD_eq_getLsbD]
  · rw [List.getElem_cons_succ, getElem_regBits, getMsbD_shiftIn (by omega)]
    split_ifs with hlast
    · simp [hlast, length_regBits]
    · rw [List.getElem_append_left (by rw [length_regBits]; omega), getElem_regBits]

/-- Before any reduction, shifting multiplies by `x` and adds the bit; the bit shifted out stands at `x^24`. -/
theorem regPoly_shiftIn (r : Bits24) (b : Bool) :
    (if r.getLsbD 23 then 1 else 0) * X ^ 24 + regPoly (shiftIn r b)
      = regPoly r * X + (if b then 1 else 0) := by
  have h := congrArg bitPoly (regBits_append_bit r b)
  rw [bitPoly_concat, bitPoly_cons, length_regBits] at h
  exact h.symm

/-- What the step takes away is `P`, exactly when a 1 is shifted out. -/
theorem regPoly_crcStep_add (r : Bits24) (b : Bool) :
    regPoly (crcStep r b) + genPoly * (if r.getLsbD 23 then 1 else 0)
      = regPoly r * X + (if b then 1 else 0) := by
  rw [← regPoly_shiftIn]
  cases h : r.getLsbD 23
  · simp [crcStep_of_zero_out h]
  · rw [crcStep_of_one_out h, regPoly_xor, genPoly]
    have hcancel := CharTwo.add_self_eq_zero (regPoly generator)
    simp only [if_true]
    linear_combination hcancel

theorem regPoly_crcStep (r : Bits24) (b : Bool) :
    regPoly (crcStep r b) = (regPoly r * X + (if b then 1 else 0)) %ₘ genPoly := by
  have hdeg : (regPoly (crcStep r b)).degree < genPoly.degree := by
    rw [degree_genPoly]
    exact degree_regPoly_lt _
  exact (Polynomial.div_modByMonic_unique _ _ genPoly_monic ⟨regPoly_crcStep_add r b, hdeg⟩).2.symm

/-- Settles O18: the step splits on the bit shifted out, and what it takes away is a multiple of `P`. -/
theorem crcStepIsPolynomialStep : Obligations.CrcStepIsPolynomialStep :=
  fun r b => ⟨fun h => toNat_crcStep_of_zero_out h b, fun h => toNat_crcStep_of_one_out h b, regPoly_crcStep r b⟩

theorem feed_concat (r : Bits24) (bits : List Bool) (b : Bool) : feed r (bits ++ [b]) = crcStep (feed r bits) b :=
  feed_append r bits [b]

theorem regPoly_feed_zero (bits : List Bool) : regPoly (feed 0 bits) = bitPoly bits %ₘ genPoly := by
  induction bits using List.reverseRecOn with
  | nil => rw [feed_nil, regPoly_zero, bitPoly_nil, Polynomial.zero_modByMonic]
  | append_singleton bits b ih =>
    rw [feed_concat, regPoly_crcStep, ih, bitPoly_concat]
    refine Polynomial.modByMonic_eq_of_dvd_sub genPoly_monic ?_
    rw [add_sub_add_right_eq_sub, ← sub_mul]
    exact (Polynomial.dvd_modByMonic_sub _ _).mul_right X

theorem crc24_eq_feed (bits : List Bool) : crc24 bits = feed 0 (bits ++ List.replicate 24 false) :=
  (feed_append 0 bits (List.replicate 24 false)).symm

theorem regPoly_crc24 (bits : List Bool) : regPoly (crc24 bits) = (bitPoly bits * X ^ 24) %ₘ genPoly := by
  rw [crc24_eq_feed, regPoly_feed_zero, bitPoly_append, bitPoly_zeros, add_zero, List.length_replicate]

/-- Settles O19: by induction on the bits, each step one multiplication by `x` modulo `P`. -/
theorem crcIsPolynomialRemainder : Obligations.CrcIsPolynomialRemainder := by
  unfold Obligations.CrcIsPolynomialRemainder
  intro poly ofReg P
  have hP : P = genPoly := genPoly_eq.symm
  rw [hP]
  exact ⟨fun _ => rfl, fun bits => ⟨rfl, regPoly_feed_zero bits, regPoly_crc24 bits⟩⟩

/-! ### The commands of the unit (R154 to R157) -/

/-- The machine with another CRC register. -/
def withCrcR (r : Bits24) (s : State) : State := s.setBlk { s.blk with crcR := r }

@[simp] theorem withCrcR_blk (r : Bits24) (s : State) : (withCrcR r s).blk = { s.blk with crcR := r } := rfl
@[simp] theorem withCrcR_withCrcR (r r' : Bits24) (s : State) : withCrcR r (withCrcR r' s) = withCrcR r s := rfl

theorem exec_crcInit (s : State) :
    exec .crcInit s = .next { s with blk := { s.blk with crcR := 0, crcRes := 0 } } := rfl

theorem exec_crcByte (v : Byte) (s : State) :
    exec (.crcByte v) s = .next (withCrcR (feed s.blk.crcR (bitsOfByte v)) s) := rfl

theorem exec_crcFinal (s : State) :
    exec .crcFinal s = .next { s with blk := { s.blk with crcRes := augment s.blk.crcR } } := rfl

/-- The one bit of an operand. -/
theorem getLsbD_zero_eq (b : BitVec 1) : b.getLsbD 0 = (b == 1) := by
  revert b
  decide

theorem exec_crcBit (b : BitVec 1) (s : State) :
    exec (.crcBit b) s = .next (withCrcR (crcStep s.blk.crcR (b == 1)) s) := by
  rw [← getLsbD_zero_eq]
  rfl

theorem augment_zero : augment 0 = 0 := feed_zeros 24

/-- Settles O20: both elements of the unit are cleared, and a cleared register augments to 0. -/
theorem crcInitClears : Obligations.CrcInitClears := by
  refine ⟨by decide, fun s => ⟨exec_crcInit s, ?_⟩⟩
  rw [Encoding.execAll_cons_of_next (exec_crcInit s), Encoding.execAll_cons_of_next (exec_crcFinal _), augment_zero]
  rfl

theorem encode_crcBit (b : BitVec 1) : encode (.crcBit b) = 0x11#8 ++ 0#23 ++ b := by
  rw [BitVec.append_assoc]
  rfl

/-- Settles O21: the command is one bit step of the register, and the corner cases are four such steps. -/
theorem crcBitFeedsOneBit : Obligations.CrcBitFeedsOneBit :=
  ⟨encode_crcBit, exec_crcBit, by decide, by decide, by decide, by decide⟩

/-- Commands that each feed the register some bits feed it all of them, in order. -/
theorem execAll_feeding {α : Type} {command : α → Instr} {bitsOf : α → List Bool}
    (h : ∀ a s, exec (command a) s = .next (withCrcR (feed s.blk.crcR (bitsOf a)) s)) (as : List α) (is : List Instr)
    (s : State) :
    execAll (as.map command ++ is) s = execAll is (withCrcR (feed s.blk.crcR (as.flatMap bitsOf)) s) := by
  induction as generalizing s with
  | nil => rfl
  | cons a as ih =>
    rw [List.map_cons, List.cons_append, Encoding.execAll_cons_of_next (h a s), ih, List.flatMap_cons, feed_append,
      withCrcR_withCrcR, withCrcR_blk]

theorem execAll_crcBits (bs : List (BitVec 1)) (s : State) :
    execAll (bs.map .crcBit) s = .next (withCrcR (feed s.blk.crcR (bs.map (· == 1))) s) := by
  have h := execAll_feeding (bitsOf := fun b => [b == 1]) exec_crcBit bs [] s
  rw [List.append_nil, ← List.map_eq_flatMap] at h
  exact h

theorem execAll_crcBytes (bytes : List Byte) (is : List Instr) (s : State) :
    execAll (bytes.map .crcByte ++ is) s = execAll is (withCrcR (feed s.blk.crcR (bitsOfBytes bytes)) s) :=
  execAll_feeding exec_crcByte bytes is s

theorem encode_crcByte (v : Byte) : encode (.crcByte v) = 0x12#8 ++ 0#16 ++ v := by
  rw [BitVec.append_assoc]
  rfl

/-- The bits of a byte, most significant first, as operands of CRC_BIT. -/
def bitOperands (v : Byte) : List (BitVec 1) :=
  [v.extractLsb' 7 1, v.extractLsb' 6 1, v.extractLsb' 5 1, v.extractLsb' 4 1,
   v.extractLsb' 3 1, v.extractLsb' 2 1, v.extractLsb' 1 1, v.extractLsb' 0 1]

theorem bitOperands_eq_one (v : Byte) : (bitOperands v).map (· == 1) = bitsOfByte v := by
  have hbit (i : Nat) : (v.extractLsb' i 1 == 1) = v.getLsbD i := by
    rw [← getLsbD_zero_eq, BitVec.getLsbD_extractLsb']
    simp
  simp only [bitOperands, bitsOfByte, List.map_cons, List.map_nil, hbit]

theorem exec_crcByte_eq_crcBits (v : Byte) (s : State) :
    exec (.crcByte v) s = execAll ((bitOperands v).map .crcBit) s := by
  rw [execAll_crcBits, bitOperands_eq_one, exec_crcByte]

/-- CRC_INIT and the bytes of a sequence leave its unaugmented remainder in the register. -/
theorem execAll_init_bytes (bytes : List Byte) (is : List Instr) (s : State) :
    execAll (.crcInit :: (bytes.map .crcByte ++ is)) s =
      execAll is { s with blk := { s.blk with crcR := feed 0 (bitsOfBytes bytes), crcRes := 0 } } := by
  rw [Encoding.execAll_cons_of_next (exec_crcInit s), execAll_crcBytes]
  rfl

theorem execAll_init_bytes_final (bytes : List Byte) (s : State) :
    execAll (.crcInit :: (bytes.map .crcByte ++ [.crcFinal])) s =
      .next { s with blk := { s.blk with crcR := feed 0 (bitsOfBytes bytes), crcRes := crc24Bytes bytes } } := by
  rw [execAll_init_bytes]
  rfl

/-- Settles O22: CRC_BYTE and the eight CRC_BITs feed the same bits. -/
theorem crcByteIsEightBits : Obligations.CrcByteIsEightBits := by
  refine ⟨encode_crcByte, fun v s => ⟨⟨_, exec_crcByte v s⟩, exec_crcByte_eq_crcBits v s, ?_, ?_⟩⟩
  · have hreg : feed 0 (bitsOfBytes [0x8D]) = 0x00008D := by decide +kernel
    have hres : crc24Bytes [0x8D] = 0xF8BA93 := by decide +kernel
    rw [← hreg, ← hres]
    exact execAll_init_bytes_final [0x8D] s
  · have hreg : feed 0 (bitsOfBytes [0x8D, 0x4B, 0x17]) = 0x8D4B17 := by decide +kernel
    rw [← hreg]
    exact execAll_init_bytes [0x8D, 0x4B, 0x17] [] s

/-- Settles O23: the result is computed from the register, which CRC_FINAL leaves as it was. -/
theorem crcFinalGivesCrc24 : Obligations.CrcFinalGivesCrc24 := by
  refine ⟨by decide, fun s => ⟨exec_crcFinal s, ?_⟩, execAll_init_bytes_final, by decide +kernel,
    by decide +kernel⟩
  rw [Encoding.execAll_cons_of_next (exec_crcFinal s)]
  rfl

/-! ### Linearity (R161) -/

theorem augment_xor (r r' : Bits24) : augment (r ^^^ r') = augment r ^^^ augment r' :=
  feed_xor (List.replicate 24 false) (List.replicate 24 false) rfl r r'

theorem crc24_xor {xs ys : List Bool} (h : xs.length = ys.length) :
    crc24 (List.zipWith (· ^^ ·) xs ys) = crc24 xs ^^^ crc24 ys := by
  have hfeed : feed 0 (List.zipWith (· ^^ ·) xs ys) = feed 0 xs ^^^ feed 0 ys := feed_xor xs ys h 0 0
  rw [crc24, hfeed, augment_xor]
  rfl

theorem crc24_zeros (n : Nat) : crc24 (List.replicate n false) = 0 := by
  rw [crc24, feed_zeros, augment_zero]

/-- Zero bits in front of a sequence leave the register at its start, 0. -/
theorem crc24_zeros_append (n : Nat) (bits : List Bool) : crc24 (List.replicate n false ++ bits) = crc24 bits := by
  rw [crc24, feed_append, feed_zeros]
  rfl

/-- Settles O24: feeding is linear from a register of 0, which zero bits do not move. -/
theorem crcIsLinear : Obligations.CrcIsLinear :=
  ⟨fun _ _ => crc24_xor, crc24_zeros, fun k => crc24_zeros_append (8 * k), by decide +kernel, by decide +kernel⟩

/-! ### The two parity checks (R158, R159) -/

/-- A zero bit makes no register 0 but 0 itself: a 1 shifted out puts `G[0] = 1` at position 0. -/
theorem crcStep_false_eq_zero_iff (r : Bits24) : crcStep r false = 0 ↔ r = 0 := by
  refine ⟨fun h => ?_, by rintro rfl; rfl⟩
  cases hout : r.getLsbD 23
  · have hlt := (zero_out_iff r).mp hout
    have hstep : (2 * r.toNat + false.toNat) % 2 ^ 24 = 0 := by
      rw [← toNat_crcStep_of_zero_out hout, h]
      rfl
    have hzero : r.toNat = 0 := by
      rw [Bool.toNat_false] at hstep
      omega
    exact BitVec.eq_of_toNat_eq hzero
  · have hbit := congrArg (·.getLsbD 0) h
    rw [crcStep_of_one_out hout] at hbit
    simp [shiftIn, generator] at hbit

/-- `x^n` is invertible modulo `P`. -/
theorem feed_zeros_eq_zero_iff (r : Bits24) (n : Nat) : feed r (List.replicate n false) = 0 ↔ r = 0 := by
  induction n generalizing r with
  | zero => rfl
  | succ n ih => rw [List.replicate_succ, feed_cons, ih, crcStep_false_eq_zero_iff]

theorem augment_eq_zero_iff (r : Bits24) : augment r = 0 ↔ r = 0 := feed_zeros_eq_zero_iff r 24

theorem crc24_eq_zero_iff (bits : List Bool) : crc24 bits = 0 ↔ feed 0 bits = 0 := augment_eq_zero_iff _

theorem ofBits_concat (bits : List Bool) (b : Bool) : ofBits (bits ++ [b]) = 2 * ofBits bits + b.toNat := by
  simp [ofBits]

theorem ofBits_lt (bits : List Bool) : ofBits bits < 2 ^ bits.length := by
  induction bits using List.reverseRecOn with
  | nil => decide
  | append_singleton bits b ih =>
    have hb : b.toNat < 2 := b.toNat_lt
    rw [ofBits_concat, List.length_append, List.length_singleton, pow_succ]
    omega

/-- Up to 24 bits only shift in: no 1 reaches position 23 before the 24th bit (R156). -/
theorem toNat_feed_zero {bits : List Bool} (h : bits.length ≤ 24) : (feed 0 bits).toNat = ofBits bits := by
  induction bits using List.reverseRecOn with
  | nil => rfl
  | append_singleton bits b ih =>
    rw [List.length_append, List.length_singleton] at h
    have hreg := ih (by omega)
    have hlt : ofBits bits < 2 ^ 23 := (ofBits_lt bits).trans_le (Nat.pow_le_pow_right (by decide) (by omega))
    have hb : b.toNat < 2 := b.toNat_lt
    rw [feed_concat, toNat_crcStep_of_zero_out ((zero_out_iff _).mpr (hreg ▸ hlt)), hreg, ofBits_concat]
    omega

/-- The low `k + 1` bits of a number are its bit `k` and its low `k` bits. -/
theorem mod_two_pow_succ (x k : Nat) : x % 2 ^ (k + 1) = x % 2 ^ k + 2 ^ k * (x.testBit k).toNat := by
  rw [Nat.toNat_testBit, Nat.mod_pow_succ]

/-- A byte is the number its bits write. -/
theorem foldl_bitsOfByte (n : Nat) (v : Byte) :
    (bitsOfByte v).foldl (fun acc b => 2 * acc + b.toNat) n = 256 * n + v.toNat := by
  have hv : v.toNat = v.toNat % 2 ^ 8 := (Nat.mod_eq_of_lt v.isLt).symm
  rw [hv]
  simp only [bitsOfByte, List.foldl_cons, List.foldl_nil, ← BitVec.testBit_toNat, mod_two_pow_succ]
  omega

theorem ofBits_bitsOfBytes (bytes : List Byte) : ofBits (bitsOfBytes bytes) = bigEndian bytes := by
  simp only [ofBits, bitsOfBytes, List.foldl_flatMap, foldl_bitsOfByte, bigEndian]

theorem length_bitsOfBytes (bytes : List Byte) : (bitsOfBytes bytes).length = 8 * bytes.length := by
  simp [bitsOfBytes, bitsOfByte, List.length_flatMap, mul_comm]

theorem toNat_feed_zero_bytes {T : List Byte} (h : T.length = 3) : (feed 0 (bitsOfBytes T)).toNat = bigEndian T := by
  rw [toNat_feed_zero (by rw [length_bitsOfBytes]; omega), ofBits_bitsOfBytes]

theorem zipWith_xor_zeros (bits : List Bool) :
    List.zipWith (· ^^ ·) bits (List.replicate bits.length false) = bits := by
  induction bits with
  | nil => rfl
  | cons b bits ih => rw [List.length_cons, List.replicate_succ, List.zipWith_cons_cons, ih, Bool.xor_false]

/-- Feeding from `r` adds what as many zero bits make of `r` to what the bits make of 0. -/
theorem feed_eq_xor (r : Bits24) (bits : List Bool) :
    feed r bits = feed 0 bits ^^^ feed r (List.replicate bits.length false) := by
  have h := feed_xor bits (List.replicate bits.length false) List.length_replicate.symm 0 r
  rwa [zipWith_xor_zeros, show 0 ^^^ r = r from BitVec.zero_xor] at h

/-- Three bytes after a message are added to its CRC: the shift by 24 is the augmentation. -/
theorem feed_zero_append_trailer (bits : List Bool) {T : List Byte} (h : T.length = 3) :
    feed 0 (bits ++ bitsOfBytes T) = feed 0 (bitsOfBytes T) ^^^ crc24 bits := by
  rw [feed_append, feed_eq_xor, length_bitsOfBytes, h]
  rfl

theorem bitsOfBytes_append (xs ys : List Byte) : bitsOfBytes (xs ++ ys) = bitsOfBytes xs ++ bitsOfBytes ys := by
  simp [bitsOfBytes]

theorem feed_zero_frame_eq_zero_iff (M : List Byte) {T : List Byte} (h : T.length = 3) :
    feed 0 (bitsOfBytes (M ++ T)) = 0 ↔ (crc24Bytes M).toNat = bigEndian T := by
  rw [bitsOfBytes_append, feed_zero_append_trailer _ h, eq_comm (a := BitVec.toNat _), ← toNat_feed_zero_bytes h,
    BitVec.toNat_inj]
  exact BitVec.xor_eq_zero_iff

/-- The unaugmented and the augmented check of a frame are the comparison with its trailer. -/
theorem crc24Bytes_frame_eq_zero_iff (M : List Byte) {T : List Byte} (h : T.length = 3) :
    crc24Bytes (M ++ T) = 0 ↔ (crc24Bytes M).toNat = bigEndian T :=
  (crc24_eq_zero_iff _).trans (feed_zero_frame_eq_zero_iff M h)

/-- Settles O26: the trailer is added to the CRC of the message, and the augmentation makes nothing 0 but 0. -/
theorem parityChecksAgree : Obligations.ParityChecksAgree :=
  fun M _ _ hT => crc24Bytes_frame_eq_zero_iff M hT

/-- A register as its three bytes, big-endian. -/
def trailerOf (r : Bits24) : List Byte := [r.extractLsb' 16 8, r.extractLsb' 8 8, r.extractLsb' 0 8]

theorem bigEndian_trailerOf (r : Bits24) : bigEndian (trailerOf r) = r.toNat := by
  simp only [bigEndian, trailerOf, List.foldl_cons, List.foldl_nil, BitVec.extractLsb'_toNat, Nat.shiftRight_eq_div_pow]
  omega

theorem crc24Bytes_signed (M : List Byte) : crc24Bytes (M ++ trailerOf (crc24Bytes M)) = 0 :=
  (crc24Bytes_frame_eq_zero_iff M rfl).mpr (bigEndian_trailerOf _).symm

/-- Settles O25: the trailer's value is the CRC it is compared with. -/
theorem paritySelfCheck : Obligations.ParitySelfCheck :=
  fun M _ => ⟨crc24Bytes_signed M, (crc24_eq_zero_iff _).mp (crc24Bytes_signed M)⟩

/-! ### Single-bit errors (R160) -/

/-- Flipping bit `i` adds the sequence whose only 1 is bit `i`. -/
theorem modify_not_eq_zipWith {bits : List Bool} {i : Nat} (h : i < bits.length) :
    bits.modify i not = List.zipWith (· ^^ ·) bits
      (List.replicate i false ++ true :: List.replicate (bits.length - 1 - i) false) := by
  induction bits generalizing i with
  | nil => simp at h
  | cons b bits ih =>
    cases i with
    | zero => simp [zipWith_xor_zeros]
    | succ i =>
      have hsub : (b :: bits).length - 1 - (i + 1) = bits.length - 1 - i := by rw [List.length_cons]; omega
      rw [List.modify_succ_cons, ih (by simpa using h), hsub]
      simp [List.replicate_succ]

theorem crc24_modify_not {bits : List Bool} {i : Nat} (h : i < bits.length) :
    crc24 (bits.modify i not) = crc24 bits ^^^ crc24 (true :: List.replicate (bits.length - 1 - i) false) := by
  rw [modify_not_eq_zipWith h, crc24_xor (by simp; omega), crc24_zeros_append]

/-- `P` divides no power of `x`. -/
theorem crc24_single_ne_zero (n : Nat) : crc24 (true :: List.replicate n false) ≠ 0 := by
  rw [Ne, crc24_eq_zero_iff, feed_cons, feed_zeros_eq_zero_iff]
  decide

/-- Settles O27: by linearity a flip adds the CRC of its single bit, which zero bits cannot bring to 0. -/
theorem singleBitErrorsDetected : Obligations.SingleBitErrorsDetected := by
  refine ⟨fun bits i h => ⟨crc24_modify_not h, crc24_single_ne_zero _⟩, fun bits hlen hvalid => ?_⟩
  have hflip {i : Nat} (hi : i < 112) :
      crc24 (bits.modify i not) = crc24 (true :: List.replicate (bits.length - 1 - i) false) := by
    rw [crc24_modify_not (hlen ▸ hi), hvalid]
    exact BitVec.zero_xor
  refine ⟨fun i hi => hflip hi ▸ crc24_single_ne_zero _, ?_⟩
  rw [hflip (by decide), hlen]
  decide +kernel

/-! ### Re-signing (R162) -/

/-- Settles O28: the two checks of SLICE_COMMIT pass, and the syndrome of a signed frame is 0. -/
theorem resignedFrameIsValid : Obligations.ResignedFrameIsValid := by
  intro s fb T hsb hn hts
  have hsyn : syndrome s.blk.sb = 0 := (congrArg crc24Bytes hsb).trans (crc24Bytes_signed _)
  have hlen : s.blk.sbN.val = 14 := (BlockState.sbN_eq_14_iff _).mpr hn
  have hnone : errorRaised .sliceCommit s.blk = none := by
    rw [errorRaised, if_neg (by omega), if_pos hlen]
  rw [SliceBuffer.exec_of_no_error hnone, BlockState.completion, hsyn]
  rfl

end Sys2Proof.Proofs.Crc24
end

section
/-! PROOFS. The demodulator (43_demod.md): samples and power (R182 to R187), the end and the start of a stream (R200 to
R202), the search (R190, R195 to R197), the match test (R188, R189, R191), the Manchester decoder (R192, R193), the
length decision (R194), and the reception of an ideal frame. -/

namespace Sys2Proof.Proofs.Demod

open Sys2Proof.Machine

/-! ### Samples and power (R182, R183) -/

theorem toNat_power (a b : BitVec 12) : ((power a b).toNat : Int) = a.toInt ^ 2 + b.toInt ^ 2 := by
  have ha := BlockState.sample_sq_le a
  have hb := BlockState.sample_sq_le b
  have ha0 := mul_self_nonneg a.toInt
  have hb0 := mul_self_nonneg b.toInt
  rw [power, BitVec.toNat_ofInt, sq, sq]
  omega

/-- Of the recentred samples only -2048 has the largest square: the range reaches no further than 2047 above 0. -/
theorem sample_sq_eq_max_iff (x : BitVec 12) : x.toInt ^ 2 = 2 ^ 22 ↔ x.toInt = -2048 := by
  have hx := sample_bounds x
  refine ⟨fun h => ?_, fun h => by rw [h]; norm_num⟩
  obtain h | h := sq_eq_sq_iff_eq_or_eq_neg.mp (h.trans (show (2 : Int) ^ 22 = 2048 ^ 2 by norm_num))
  · omega
  · exact h

theorem power_eq_max_iff (a b : BitVec 12) :
    (power a b).toNat = 2 ^ 23 ↔ a.toInt = -2048 ∧ b.toInt = -2048 := by
  have ha := BlockState.sample_sq_le a
  have hb := BlockState.sample_sq_le b
  have hsum := toNat_power a b
  rw [← sample_sq_eq_max_iff, ← sample_sq_eq_max_iff]
  rw [← sq] at ha hb
  omega

/-- Settles O39: the sum of two squares of at most 2^22 each needs no reduction modulo 2^24. -/
theorem powerIsTheSumOfSquares : Obligations.PowerIsTheSumOfSquares :=
  ⟨recentre_toInt, fun a b => ⟨toNat_power a b, BlockState.power_le a b, power_eq_max_iff a b⟩⟩

/-! ### SAMPLE (R184 to R187) -/

theorem encode_sample (raw : BitVec 12) : encode (.sample raw) = 0x20#8 ++ 0#12 ++ raw := by
  rw [BitVec.append_assoc]
  rfl

/-- SAMPLE checks nothing but that the stream has not ended (R185). -/
theorem errorRaised_sample_of_running {raw : BitVec 12} {b : Block} (h : b.ended = false) :
    errorRaised (.sample raw) b = none := by
  rw [errorRaised, h]
  rfl

theorem exec_sample_of_running {raw : BitVec 12} {s : State} (h : s.blk.ended = false) :
    exec (.sample raw) s = .next (s.setBlk (acceptSample s.params raw s.blk)) :=
  SliceBuffer.exec_of_no_error (errorRaised_sample_of_running h)

/-- Settles O40: the check of R185, then an odd sample is held (R186) and an even one paired (R187). -/
theorem sampleIsHeldOrPaired : Obligations.SampleIsHeldOrPaired := by
  refine ⟨encode_sample, fun raw s => ⟨fun hend => ?_, fun hrun hodd => ?_, fun hrun heven => ?_⟩⟩
  · rw [← encode_sample]
    exact SliceBuffer.exec_of_error (if_pos hend)
  · rw [exec_sample_of_running hrun, acceptSample_odd hodd]
    rfl
  · rw [exec_sample_of_running hrun, acceptSample_even heven]
    rfl

/-! ### EOS and DEMOD_RESET (R200 to R202) -/

theorem exec_eos (s : State) :
    exec .eos s = .next (s.setBlk (if s.blk.ended then s.blk else { s.blk with ended := true, pendV := false })) :=
  BlockState.exec_eq .eos s

/-- Settles O41: EOS acts on a running stream only, and DEMOD_RESET writes the elements of R200. -/
theorem streamEndsAndStarts : Obligations.StreamEndsAndStarts := by
  refine ⟨by decide, fun s => ⟨fun hrun => ?_, fun hend => ?_⟩, by decide, fun _ => rfl⟩
  · rw [exec_eos, hrun]
    rfl
  · rw [exec_eos, if_pos hend, setBlk_self]

/-- No command but SAMPLE and the two resets changes the queue, SLICE_POP apart, which takes its oldest entry. -/
theorem blockAfter_fifo {i : Instr} (hi : i.mnemonic ∉ [.sample, .demodReset, .softReset]) (p : Params) (b : Block) :
    (BlockState.blockAfter i p b).fifo = b.fifo ∨
    (i = .slicePop ∧ (BlockState.blockAfter i p b).fifo = b.fifo.tail) := by
  by_cases hm : i.mnemonic ∈ [.sample, .slicePop, .demodReset, .softReset]
  · cases i with
    | slicePop =>
      refine .inr ⟨rfl, ?_⟩
      cases hq : b.fifo with
      | nil =>
        rw [BlockState.blockAfter_of_error (i := .slicePop) (if_pos hq), recordError_frame]
        exact hq
      | cons c q =>
        have hne : b.fifo ≠ [] := by simp [hq]
        rw [BlockState.blockAfter_of_none (i := .slicePop) (if_neg hne), BlockState.completion, hq]
        rfl
    | sample | demodReset | softReset => simp [Instr.mnemonic] at hi
    | _ => simp [Instr.mnemonic] at hm
  · exact .inl ((BlockState.blockAfter_writesOnlyListed i p b).fifo hm)

/-- Settles O49: after the end SAMPLE only records its error and EOS has no effect; no other command but the resets is
listed for the stream. -/
theorem endedStreamIsFrozen : Obligations.EndedStreamIsFrozen := by
  intro i s t hend hdemod hsoft h
  obtain rfl := BlockState.eq_of_exec h
  rw [setBlk_blk]
  by_cases hm : i.mnemonic ∈ [.sample, .eos, .demodReset, .softReset]
  · cases i with
    | sample raw =>
      rw [BlockState.blockAfter_of_error (i := .sample raw) (if_pos hend), recordError_frame]
      exact ⟨hend, rfl, rfl, rfl, rfl, rfl, rfl, .inl rfl⟩
    | eos =>
      rw [BlockState.blockAfter_of_none rfl, BlockState.completion, if_pos hend]
      exact ⟨hend, rfl, rfl, rfl, rfl, rfl, rfl, .inl rfl⟩
    | demodReset => exact absurd rfl hdemod
    | softReset => exact absurd rfl hsoft
    | _ => simp [Instr.mnemonic] at hm
  · have w := BlockState.blockAfter_writesOnlyListed i s.params s.blk
    obtain ⟨-, hn, hph, hk, hpre, hemit, hdrop⟩ := w.stream (BlockState.not_listed_of_subset hm)
    have hended := w.ended (BlockState.not_listed_of_subset hm)
    exact ⟨hended.trans hend, hn, hph, hk, hpre, hemit, hdrop,
      blockAfter_fifo (BlockState.not_listed_of_subset hm) _ _⟩

/-! ### The length decision (R194) -/

theorem toNat_formatBits (byte0 : Byte) : (formatBits byte0).toNat = byte0.toNat / 8 := by
  have h := byte0.isLt
  rw [formatBits, BitVec.extractLsb'_toNat, Nat.shiftRight_eq_div_pow]
  omega

theorem frameSize_of_listed {byte0 : Byte} (h : formatBits byte0 = 17 ∨ formatBits byte0 = 18) :
    frameSize byte0 = 14 := by
  obtain h | h := h <;> rw [frameSize, h] <;> rfl

theorem frameSize_of_not_listed {byte0 : Byte} (h : ¬ (formatBits byte0 = 17 ∨ formatBits byte0 = 18)) :
    frameSize byte0 = 0 := by
  rw [frameSize, if_neg (by simpa [extendedSquitterFormats] using h)]

/-- Settles O46: the top five bits are the byte divided by 8. -/
theorem frameSizeByFormat : Obligations.FrameSizeByFormat := by
  intro byte0
  have hformat (n : BitVec 5) : formatBits byte0 = n ↔ byte0.toNat / 8 = n.toNat := by
    rw [← toNat_formatBits, BitVec.toNat_inj]
  refine ⟨fun h => frameSize_of_listed ?_, fun h17 h18 => frameSize_of_not_listed ?_⟩
  · rwa [hformat, hformat]
  · rw [hformat, hformat]
    exact not_or.mpr ⟨h17, h18⟩

/-! ### One position (R195 to R197) -/

theorem tryPosition_of_no_match {p : Params} {k : Nat} {b : Block} (hm : preambleMatch p b.ph k = false) :
    tryPosition p k b = b.setPosition (k + 1) := by
  simp [tryPosition, hm]

theorem tryPosition_of_length_zero {p : Params} {k : Nat} {b : Block} (hm : preambleMatch p b.ph k = true)
    (hs : frameSize (frameByte p b.ph k 0) = 0) :
    tryPosition p k b = { b with cntPre := b.cntPre + 1 }.setPosition (k + 1) := by
  simp [tryPosition, hm, hs]

theorem tryPosition_of_length_14 {p : Params} {k : Nat} {b : Block} (hm : preambleMatch p b.ph k = true)
    (hs : frameSize (frameByte p b.ph k 0) = 14) :
    tryPosition p k b = emit p k { b with cntPre := b.cntPre + 1 } := by
  simp [tryPosition, hm, hs]

theorem resumePosition_eq_ite (p : Params) (k : Nat) :
    resumePosition p k = if p.resume = .skipFrame then k + window p else k + 1 := by
  unfold resumePosition
  cases p.resume <;> rfl

theorem bufferByte_frameAt (p : Params) (ph : List Bits24) (k : Nat) {j : Nat} (hj : j < 14) :
    bufferByte (frameAt p ph k) j = frameByte p ph k j := by
  interval_cases j <;> rfl

/-- A matched frame of length 14 with room in the queue (R195, R196, R197). -/
theorem tryPosition_of_room {p : Params} {k : Nat} {b : Block} (hm : preambleMatch p b.ph k = true)
    (hs : frameSize (frameByte p b.ph k 0) = 14) (hroom : b.fifo.length < p.fifoDepth) :
    tryPosition p k b = { b with
      kpos := BitVec.ofNat 64 (resumePosition p k), cntPre := b.cntPre + 1, cntEmit := b.cntEmit + 1
      fifo := b.fifo ++ [{ ts := timestamp p k, fb := frameAt p b.ph k }] } := by
  rw [tryPosition_of_length_14 hm hs, emit, fifoPut_room (b := { b with cntPre := b.cntPre + 1 }) hroom]
  rfl

/-- A matched frame of length 14 with the queue full (R195, R197). -/
theorem tryPosition_of_full {p : Params} {k : Nat} {b : Block} (hm : preambleMatch p b.ph k = true)
    (hs : frameSize (frameByte p b.ph k 0) = 14) (hfull : p.fifoDepth ≤ b.fifo.length) :
    tryPosition p k b = { b with
      kpos := BitVec.ofNat 64 (resumePosition p k), cntPre := b.cntPre + 1
      cntDrop := b.cntDrop + 1, ovf := true } := by
  rw [tryPosition_of_length_14 hm hs, emit, fifoPut_full (b := { b with cntPre := b.cntPre + 1 }) hfull.not_gt]
  rfl

/-- Settles O47: the four cases of a try, one lemma each. -/
theorem tryingAPosition : Obligations.TryingAPosition := by
  intro p k b _ next byte0
  have hnext : BitVec.ofNat 64 (resumePosition p k) = next := congrArg _ (resumePosition_eq_ite p k)
  refine ⟨tryPosition_of_no_match, tryPosition_of_length_zero, fun hm hs hroom => ?_, fun hm hs hfull => ?_⟩
  · refine ⟨frameAt p b.ph k, ?_, fun j hj => bufferByte_frameAt p b.ph k hj⟩
    rw [tryPosition_of_room hm hs hroom, hnext]
    rfl
  · rw [tryPosition_of_full hm hs hfull, hnext]

/-! ### The search (R190) -/

/-- The loop's bound matters no more once it covers the rounds the loop can make before a wrap (log 7). -/
theorem tryLoop_eq_of_enough {p : Params} (hp : p.legal = true) :
    ∀ (n m : Nat) {b : Block}, b.ph.length < 2 ^ 64 → b.ph.length < n + (b.kpos.toNat + window p) →
      b.ph.length < m + (b.kpos.toNat + window p) → tryLoop p n b = tryLoop p m b
  | 0, m, b, _, hn, _ => (tryLoop_incomplete (b := b) m (by omega)).symm
  | n, 0, _, _, _, hm => tryLoop_incomplete n (by omega)
  | n + 1, m + 1, b, hl, hn, hm => by
    by_cases hc : b.kpos.toNat + window p ≤ b.ph.length
    · have hmoves := (BlockState.tryPosition_moves hp b (hc.trans_lt hl)).1
      rw [tryLoop_complete n hc, tryLoop_complete m hc]
      exact tryLoop_eq_of_enough hp n m (by rwa [tryPosition_ph]) (by rw [tryPosition_ph]; omega)
        (by rw [tryPosition_ph]; omega)
    · rw [tryLoop_incomplete _ (by omega), tryLoop_incomplete _ (by omega)]

/-- While the window of the next position is complete, it is tried and the search goes on. -/
theorem tryPositions_complete {p : Params} (hp : p.legal = true) {b : Block} (hl : b.ph.length < 2 ^ 64)
    (hc : b.kpos.toNat + window p ≤ b.ph.length) :
    tryPositions p b = tryPositions p (tryPosition p b.kpos.toNat b) := by
  have hmoves := (BlockState.tryPosition_moves hp b (hc.trans_lt hl)).1
  have hfuel : b.ph.length + 1 - (b.kpos.toNat + window p) = b.ph.length - (b.kpos.toNat + window p) + 1 := by omega
  rw [tryPositions, hfuel, tryLoop_complete _ hc]
  exact tryLoop_eq_of_enough hp _ _ (by rwa [tryPosition_ph]) (by rw [tryPosition_ph]; omega) (by omega)

/-- When the window ends with the history, its position alone is tried: the next window is not complete. -/
theorem tryPositions_of_last_window {p : Params} (hp : p.legal = true) {b : Block} (hl : b.ph.length < 2 ^ 64)
    (hc : b.ph.length = b.kpos.toNat + window p) : tryPositions p b = tryPosition p b.kpos.toNat b := by
  have hmoves := (BlockState.tryPosition_moves hp b (hc ▸ hl)).1
  rw [tryPositions_complete hp hl hc.ge, tryPositions_incomplete]
  rw [tryPosition_ph]
  omega

/-! ### What a position reads (R188 to R193) -/

/-- A half-microsecond of legal build parameters has 1 to 127 power samples (R181). -/
theorem halfUs_bounds {p : Params} (hp : p.legal = true) : 0 < halfUs p ∧ halfUs p ≤ 127 := by
  obtain ⟨-, hpos, hle, -⟩ := legal_bounds hp
  exact ⟨hpos, hle⟩

theorem window_eq (p : Params) : window p = 240 * halfUs p := rfl

theorem powerAt_eq_zero_of_ge {ph : List Bits24} {j : Nat} (h : ph.length ≤ j) : powerAt ph j = 0 := by
  rw [powerAt, List.getD_eq_default _ _ h]
  rfl

/-- A half-bit's power, index by index: what lies beyond the history counts as 0 (R192). -/
theorem halfPower_eq_sum (ph : List Bits24) (n a : Nat) :
    halfPower ph n a = ∑ j ∈ Finset.range n, powerAt ph (a + j) := by
  induction n with
  | zero => simp [halfPower]
  | succ n ih =>
    rw [Finset.sum_range_succ, ← ih]
    obtain h | h := Nat.lt_or_ge (a + n) ph.length
    · simp [halfPower, powerAt, List.take_add_one, h]
    · rw [powerAt_eq_zero_of_ge h]
      simp [halfPower, List.take_add_one, h]

theorem dataBit_eq (p : Params) (ph : List Bits24) (k i : Nat) :
    dataBit p ph k i =
      decide (halfPower ph (halfUs p) (k + 16 * halfUs p + 2 * halfUs p * i + halfUs p) <
        halfPower ph (halfUs p) (k + 16 * halfUs p + 2 * halfUs p * i)) := rfl

section Window

variable {p : Params} {ph ph' : List Bits24} {k : Nat}
  (h : ∀ j, k ≤ j + 1 → j < k + window p → ph.getD j 0 = ph'.getD j 0)

include h

theorem powerAt_congr {j : Nat} (hj : k ≤ j + 1) (hj' : j < k + window p) : powerAt ph j = powerAt ph' j := by
  rw [powerAt, powerAt, h j hj hj']

theorem peakSum_congr {j : Nat} (hj : k ≤ j + 1) (hj' : j + 9 * halfUs p < k + window p) :
    peakSum p ph j = peakSum p ph' j := by
  simp (disch := omega) only [peakSum, powerAt_congr h]

theorem valleySum_congr (hk : 8 * halfUs p < window p) : valleySum p ph k = valleySum p ph' k := by
  simp (disch := omega) only [valleySum, powerAt_congr h]

theorem preambleMatch_congr (hp : p.legal = true) : preambleMatch p ph k = preambleMatch p ph' k := by
  have hu := halfUs_bounds hp
  have hw := window_eq p
  have hbefore : peakSumBefore p ph k = peakSumBefore p ph' k := by
    cases k with
    | zero => rfl
    | succ k => exact peakSum_congr h le_rfl (by omega)
  rw [preambleMatch, preambleMatch, hbefore, peakSum_congr h (Nat.le_succ k) (by omega),
    peakSum_congr h (by omega) (by omega), valleySum_congr h (by omega)]

theorem halfPower_congr {n a : Nat} (ha : k ≤ a + 1) (ha' : a + n ≤ k + window p) :
    halfPower ph n a = halfPower ph' n a := by
  rw [halfPower_eq_sum, halfPower_eq_sum]
  refine Finset.sum_congr rfl fun j hj => ?_
  have hjn := Finset.mem_range.mp hj
  exact powerAt_congr h (by omega) (by omega)

/-- The 112 data bits end where the window ends. -/
theorem dataBit_congr {i : Nat} (hi : i < 112) : dataBit p ph k i = dataBit p ph' k i := by
  have hw := window_eq p
  have hend : 2 * halfUs p * i + 2 * halfUs p ≤ 224 * halfUs p := by nlinarith
  rw [dataBit_eq, dataBit_eq, halfPower_congr h (by omega) (by omega), halfPower_congr h (by omega) (by omega)]

theorem frameByte_congr {j : Nat} (hj : j < 14) : frameByte p ph k j = frameByte p ph' k j := by
  simp (disch := omega) only [frameByte, dataBit_congr h]

end Window

/-- Settles O42: the loop unfolds, its last round, its end, and the window it reads. -/
theorem onePositionPerPowerSample : Obligations.OnePositionPerPowerSample := by
  refine ⟨fun p b hp hl => ⟨?_, fun hc => (BlockState.tryPosition_moves hp b (by omega)).1⟩,
    fun p b x hp hbefore hl => ?_,
    fun p b hp hl => BlockState.tryPositions_end hp (by omega),
    fun p ph ph' k hp h => ⟨preambleMatch_congr h hp, fun j hj => frameByte_congr h hj⟩⟩
  · split_ifs with hc
    · exact tryPositions_complete hp (by omega) hc
    · exact tryPositions_incomplete (by omega)
  · intro b'
    have hlen : b'.ph.length = b.ph.length + 1 := List.length_append
    have hk : b'.kpos = b.kpos := rfl
    split_ifs with hc
    · exact tryPositions_of_last_window hp (by omega) hc
    · exact tryPositions_incomplete (by rw [hk]; omega)

/-! ### The match test (R188, R189, R191) -/

theorem peakSum_eq_sum (p : Params) (ph : List Bits24) (k : Nat) :
    peakSum p ph k = ∑ i ∈ {0, 2, 7, 9}, powerAt ph (k + i * halfUs p) := by
  simp [peakSum, add_assoc]

theorem valleySum_eq_sum (p : Params) (ph : List Bits24) (k : Nat) :
    valleySum p ph k = ∑ i ∈ {1, 3, 4, 5, 6, 8}, powerAt ph (k + i * halfUs p) := by
  simp [valleySum, add_assoc]

theorem peakSumBefore_eq_ite (p : Params) (ph : List Bits24) (k : Nat) :
    peakSumBefore p ph k = if k = 0 then 0 else peakSum p ph (k - 1) := by
  cases k <;> rfl

theorem preambleMatch_iff (p : Params) (ph : List Bits24) (k : Nat) :
    preambleMatch p ph k = true ↔
      peakSumBefore p ph k < peakSum p ph k ∧ peakSum p ph (k + 1) ≤ peakSum p ph k ∧
      p.preNum * valleySum p ph k ≤ p.preDen * peakSum p ph k := by
  simp [preambleMatch, and_assoc]

theorem powerAt_le {ph : List Bits24} {c : Nat} (h : ∀ x ∈ ph, x.toNat ≤ c) (j : Nat) : powerAt ph j ≤ c := by
  obtain hj | hj := Nat.lt_or_ge j ph.length
  · rw [powerAt, List.getD_eq_getElem _ _ hj]
    exact h _ (List.getElem_mem hj)
  · rw [powerAt_eq_zero_of_ge hj]
    exact Nat.zero_le c

theorem peakSum_le {ph : List Bits24} {c : Nat} (h : ∀ x ∈ ph, x.toNat ≤ c) (p : Params) (k : Nat) :
    peakSum p ph k ≤ 4 * c := by
  rw [peakSum_eq_sum]
  exact Finset.sum_le_card_nsmul _ _ c fun i _ => powerAt_le h _

theorem valleySum_le {ph : List Bits24} {c : Nat} (h : ∀ x ∈ ph, x.toNat ≤ c) (p : Params) (k : Nat) :
    valleySum p ph k ≤ 6 * c := by
  rw [valleySum_eq_sum]
  exact Finset.sum_le_card_nsmul _ _ c fun i _ => powerAt_le h _

/-- The peak sum rises at a match and does not rise after it, so that the next position does not match. -/
theorem not_preambleMatch_succ {p : Params} {ph : List Bits24} {k : Nat} (h : preambleMatch p ph k = true) :
    preambleMatch p ph (k + 1) = false := by
  obtain ⟨-, hafter, -⟩ := (preambleMatch_iff p ph k).mp h
  refine Bool.eq_false_iff.mpr fun h' => ?_
  obtain ⟨hrise, -, -⟩ := (preambleMatch_iff p ph (k + 1)).mp h'
  exact hafter.not_gt hrise

/-- Settles O43: the two sums at their offsets, their bounds, and the test. -/
theorem matchTestsPeaksAgainstGaps : Obligations.MatchTestsPeaksAgainstGaps := by
  intro p ph k u q PS VS
  have hPS (j : Nat) : PS j = peakSum p ph j := (peakSum_eq_sum p ph j).symm
  have hVS : VS = valleySum p ph k := (valleySum_eq_sum p ph k).symm
  rw [hVS, hPS, hPS, hPS, ← peakSumBefore_eq_ite]
  exact ⟨preambleMatch_iff p ph k, fun h => ⟨peakSum_le h p k, valleySum_le h p k⟩, not_preambleMatch_succ⟩

/-! ### Constant input (R191, log 11) -/

theorem powerAt_replicate {n j : Nat} (h : j < n) (c : Bits24) : powerAt (List.replicate n c) j = c.toNat := by
  rw [powerAt, List.getD_replicate _ h]

theorem peakSum_replicate {p : Params} {n k : Nat} (h : k + 9 * halfUs p < n) (c : Bits24) :
    peakSum p (List.replicate n c) k = 4 * c.toNat := by
  simp (disch := omega) only [peakSum, powerAt_replicate]
  omega

theorem valleySum_replicate {p : Params} {n k : Nat} (h : k + 8 * halfUs p < n) (c : Bits24) :
    valleySum p (List.replicate n c) k = 6 * c.toNat := by
  simp (disch := omega) only [valleySum, powerAt_replicate]
  omega

/-- Settles O44: on a constant input the peak sum rises at most where it starts, from `PS(-1) = 0`. -/
theorem constantInputMatchesAtMostAtTheStart : Obligations.ConstantInputMatchesAtMostAtTheStart := by
  intro p c n k hp hn hm
  have hu := halfUs_bounds hp
  have hw := window_eq p
  obtain ⟨hrise, -, hratio⟩ := (preambleMatch_iff p _ k).mp hm
  rw [peakSum_replicate (by omega)] at hrise hratio
  rw [valleySum_replicate (by omega)] at hratio
  have hk : k = 0 := by
    by_contra hk
    rw [peakSumBefore_eq_ite, if_neg hk, peakSum_replicate (by omega)] at hrise
    exact hrise.false
  subst hk
  have hc : 0 < c.toNat := by
    have : 0 < 4 * c.toNat := hrise
    omega
  refine ⟨by rintro rfl; exact hc.false, rfl, ?_⟩
  refine Nat.le_of_mul_le_mul_right ?_ hc
  linarith

/-! ### Bits and bytes (R192, R193) -/

theorem toNat_frameByte (p : Params) (ph : List Bits24) (k j : Nat) :
    (frameByte p ph k j).toNat = ofBits ((List.range 8).map fun i => dataBit p ph k (8 * j + i)) :=
  Nat.mod_eq_of_lt (Crc24.ofBits_lt _)

/-- The number of eight bits, as the sum of their weights. -/
theorem ofBits_range_eight (f : Nat → Bool) :
    ofBits ((List.range 8).map f) = ∑ i ∈ Finset.range 8, (f i).toNat * 2 ^ (7 - i) := by
  simp only [ofBits, List.range, List.range.loop, List.map_cons, List.map_nil, List.foldl_cons, List.foldl_nil,
    Finset.sum_range_succ, Finset.sum_range_zero]
  omega

theorem sum_powerAt_le {ph : List Bits24} {c : Nat} (h : ∀ x ∈ ph, x.toNat ≤ c) (n a : Nat) :
    ∑ j ∈ Finset.range n, powerAt ph (a + j) ≤ n * c := by
  simpa using Finset.sum_le_card_nsmul (Finset.range n) _ c fun j _ => powerAt_le h (a + j)

/-- Settles O45: half-bits as sums, a bit as their comparison, a byte as the sum of its bits' weights. -/
theorem bitsAndBytesOfAFrame : Obligations.BitsAndBytesOfAFrame := by
  intro p ph k u
  refine ⟨fun i => ?_, fun j => (toNat_frameByte p ph k j).trans (ofBits_range_eight _)⟩
  intro a H1 H2
  have hH1 : halfPower ph u a = H1 := halfPower_eq_sum ph u a
  have hH2 : halfPower ph u (a + u) = H2 := halfPower_eq_sum ph u (a + u)
  refine ⟨?_, fun h => ⟨sum_powerAt_le h u a, sum_powerAt_le h u (a + u), fun hp => ?_⟩⟩
  · rw [dataBit_eq, decide_eq_true_iff, ← hH1, ← hH2]
    rfl
  · have hu : u ≤ 127 := (halfUs_bounds hp).2
    omega

/-! ### The ideal signal, by half-microseconds (95_test_vectors.md section 2.4) -/

theorem length_flatMap {α β : Type} {f : α → List β} {n : Nat} (hf : ∀ x, (f x).length = n) (l : List α) :
    (l.flatMap f).length = l.length * n := by
  simp [List.length_flatMap, hf]

/-- In a sequence of parts of one length, element `r` of part `s`. -/
theorem getD_flatMap {α β : Type} {f : α → List β} {n : Nat} (hf : ∀ x, (f x).length = n) {r : Nat} (hr : r < n)
    (a : α) (d : β) :
    ∀ {l : List α} {s : Nat}, s < l.length → (l.flatMap f).getD (s * n + r) d = (f (l.getD s a)).getD r d
  | x :: l, 0, _ => by
    rw [List.flatMap_cons, List.getD_append _ _ _ _ (by rw [hf]; omega), zero_mul, zero_add, List.getD_cons_zero]
  | x :: l, s + 1, hs => by
    have hskip : (s + 1) * n + r - (f x).length = s * n + r := by rw [hf, Nat.succ_mul]; omega
    rw [List.flatMap_cons, List.getD_append_right _ _ _ _ (by rw [hf, Nat.succ_mul]; omega), hskip,
      getD_flatMap hf hr a d (Nat.lt_of_succ_lt_succ hs), List.getD_cons_succ]

/-- The two half-microseconds of a data bit: power in the first for a 1, in the second for a 0. -/
def bitSlots (b : Bool) : List Bool := [b, !b]

/-- Whether there is power, for each half-microsecond of an ideal frame: 16 of the preamble, then two for each bit. -/
def frameSlots (fb : Vector Byte 14) : List Bool :=
  [true, false, true, false, false, false, false, true, false, true,
   false, false, false, false, false, false] ++ (bitsOfBytes fb.toList).flatMap bitSlots

theorem idealBit_eq_flatMap (high : Bits24) (u : Nat) (b : Bool) :
    idealBit high u b = (bitSlots b).flatMap (levelRun high u) := by
  simp [idealBit, bitSlots]

theorem idealFrame_eq_flatMap (high : Bits24) (u : Nat) (fb : Vector Byte 14) :
    idealFrame high u fb = (frameSlots fb).flatMap (levelRun high u) := by
  rw [frameSlots, List.flatMap_append, List.flatMap_assoc, idealFrame, idealPreamble,
    funext (idealBit_eq_flatMap high u)]

theorem length_frameBits (fb : Vector Byte 14) : (bitsOfBytes fb.toList).length = 112 := by
  rw [Crc24.length_bitsOfBytes, Vector.length_toList]

theorem length_frameSlots (fb : Vector Byte 14) : (frameSlots fb).length = 240 := by
  rw [frameSlots, List.length_append, length_flatMap (n := 2) fun _ => rfl, length_frameBits]
  rfl

theorem length_levelRun (high : Bits24) (u : Nat) (on : Bool) : (levelRun high u on).length = u :=
  List.length_replicate

theorem length_idealFrame (high : Bits24) (u : Nat) (fb : Vector Byte 14) :
    (idealFrame high u fb).length = 240 * u := by
  rw [idealFrame_eq_flatMap, length_flatMap (length_levelRun high u), length_frameSlots]

/-- The two slots of data bit `i`. -/
theorem frameSlots_of_bit (fb : Vector Byte 14) {i : Nat} (hi : i < 112) :
    (frameSlots fb).getD (16 + 2 * i) false = (bitsOfBytes fb.toList).getD i false ∧
    (frameSlots fb).getD (17 + 2 * i) false = !(bitsOfBytes fb.toList).getD i false := by
  have hlen := length_frameBits fb
  have hslot {r : Nat} (hr : r < 2) : (frameSlots fb).getD (16 + r + 2 * i) false =
      (bitSlots ((bitsOfBytes fb.toList).getD i false)).getD r false := by
    rw [← getD_flatMap (n := 2) (fun _ => rfl) hr false false (hlen ▸ hi), frameSlots,
      List.getD_append_right _ _ _ _ (by simp; omega)]
    congr 1
    simp
    omega
  exact ⟨hslot Nat.two_pos, hslot Nat.one_lt_two⟩

/-! ### The ideal signal in a history -/

section Ideal

variable (high : Bits24) {u : Nat} (fb : Vector Byte 14) (lead : List Bits24)

/-- A power sample of the signal has the level of its half-microsecond. -/
theorem powerAt_ideal {s r : Nat} (hs : s < 240) (hr : r < u) :
    powerAt (lead ++ idealFrame high u fb) (lead.length + s * u + r) =
      if (frameSlots fb).getD s false then high.toNat else 0 := by
  rw [powerAt, List.getD_append_right _ _ _ _ (by omega), idealFrame_eq_flatMap,
    show lead.length + s * u + r - lead.length = s * u + r by omega,
    getD_flatMap (length_levelRun high u) hr false 0 (by rwa [length_frameSlots]), levelRun, List.getD_replicate _ hr]
  split <;> rfl

/-- No power sample of the signal is above its level. -/
theorem powerAt_ideal_le (hu : 0 < u) {i : Nat} (hi : i < 240 * u) :
    powerAt (lead ++ idealFrame high u fb) (lead.length + i) ≤ high.toNat := by
  have hslot := powerAt_ideal high fb lead (Nat.div_lt_of_lt_mul (by rwa [mul_comm u])) (Nat.mod_lt i hu)
  rw [add_assoc, mul_comm, Nat.div_add_mod] at hslot
  rw [hslot]
  split
  · exact le_rfl
  · exact Nat.zero_le _

theorem halfPower_ideal {s : Nat} (hs : s < 240) :
    halfPower (lead ++ idealFrame high u fb) u (lead.length + s * u) =
      u * if (frameSlots fb).getD s false then high.toNat else 0 := by
  rw [halfPower_eq_sum, Finset.sum_congr rfl fun j hj => powerAt_ideal high fb lead hs (Finset.mem_range.mp hj)]
  simp

end Ideal

/-! ### An ideal frame is received (R188 to R199) -/

section Received

variable {p : Params} (hp : p.legal = true) {high : Bits24} (hhigh : high ≠ 0) (fb : Vector Byte 14)
  (lead : List Bits24)

include hp

/-- The first sample of a half-microsecond. -/
theorem powerAt_slotStart {s : Nat} (hs : s < 240) :
    powerAt (lead ++ idealFrame high (halfUs p) fb) (lead.length + s * halfUs p) =
      if (frameSlots fb).getD s false then high.toNat else 0 :=
  powerAt_ideal high fb lead hs (r := 0) (halfUs_bounds hp).1

/-- The last sample of a half-microsecond. -/
theorem powerAt_slotEnd {s : Nat} (hs : s < 240) {j : Nat} (hj : j + 1 = lead.length + (s + 1) * halfUs p) :
    powerAt (lead ++ idealFrame high (halfUs p) fb) j = if (frameSlots fb).getD s false then high.toNat else 0 := by
  have hu := (halfUs_bounds hp).1
  rw [← powerAt_ideal (u := halfUs p) high fb lead hs (r := halfUs p - 1) (by omega)]
  congr 1
  rw [Nat.succ_mul] at hj
  omega

/-- The four pulse starts have power. -/
theorem peakSum_ideal :
    peakSum p (lead ++ idealFrame high (halfUs p) fb) lead.length = 4 * high.toNat := by
  have h (s : Nat) (hs : s < 240) := powerAt_slotStart hp (high := high) fb lead hs
  have h0 := h 0 (by decide)
  rw [zero_mul, add_zero] at h0
  rw [peakSum, h0, h 2 (by decide), h 7 (by decide), h 9 (by decide)]
  show high.toNat + high.toNat + high.toNat + high.toNat = _
  omega

/-- The six gaps are silent. -/
theorem valleySum_ideal : valleySum p (lead ++ idealFrame high (halfUs p) fb) lead.length = 0 := by
  have h (s : Nat) (hs : s < 240) := powerAt_slotStart hp (high := high) fb lead hs
  have h1 := h 1 (by decide)
  rw [one_mul] at h1
  rw [valleySum, h1, h 3 (by decide), h 4 (by decide), h 5 (by decide), h 6 (by decide), h 8 (by decide)]
  rfl

/-- Before the signal the pulse starts fall on the last sample of the silence and of three gaps. -/
theorem peakSumBefore_ideal (hlead : ∀ j, j + 1 = lead.length → lead.getD j 0 = 0) :
    peakSumBefore p (lead ++ idealFrame high (halfUs p) fb) lead.length = 0 := by
  cases hk : lead.length with
  | zero => rfl
  | succ k =>
    have h {s : Nat} (hs : s < 240) {j : Nat} := powerAt_slotEnd hp (high := high) fb lead hs (j := j)
    have hsilent : powerAt (lead ++ idealFrame high (halfUs p) fb) k = 0 := by
      rw [powerAt, List.getD_append _ _ _ _ (by omega), hlead k hk.symm]
      rfl
    rw [peakSumBefore, peakSum, hsilent, h (s := 1) (by decide) (by omega), h (s := 6) (by decide) (by omega),
      h (s := 8) (by decide) (by omega)]
    rfl

/-- After its start the signal is nowhere above the level the pulse starts have. -/
theorem peakSum_succ_ideal_le :
    peakSum p (lead ++ idealFrame high (halfUs p) fb) (lead.length + 1) ≤ 4 * high.toNat := by
  have hu := (halfUs_bounds hp).1
  have h (x : Nat) (hx : x ≤ 9 * halfUs p) :
      powerAt (lead ++ idealFrame high (halfUs p) fb) (lead.length + 1 + x) ≤ high.toNat := by
    rw [add_assoc]
    exact powerAt_ideal_le high fb lead hu (by omega)
  have h0 := h 0 (Nat.zero_le _)
  have h2 := h (2 * halfUs p) (by omega)
  have h7 := h (7 * halfUs p) (by omega)
  have h9 := h (9 * halfUs p) le_rfl
  rw [add_zero] at h0
  rw [peakSum]
  omega

include hhigh

theorem preambleMatch_ideal (hlead : ∀ j, j + 1 = lead.length → lead.getD j 0 = 0) :
    preambleMatch p (lead ++ idealFrame high (halfUs p) fb) lead.length = true := by
  have hpos : 0 < high.toNat := Nat.pos_of_ne_zero (BitVec.toNat_ne_iff_ne.mpr hhigh)
  rw [preambleMatch_iff, peakSumBefore_ideal hp fb lead hlead, peakSum_ideal hp, valleySum_ideal hp, mul_zero]
  exact ⟨by omega, peakSum_succ_ideal_le hp fb lead, Nat.zero_le _⟩

/-- A data bit is decoded as it was sent: one of its halves has power, the other none. -/
theorem dataBit_ideal {i : Nat} (hi : i < 112) :
    dataBit p (lead ++ idealFrame high (halfUs p) fb) lead.length i = (bitsOfBytes fb.toList).getD i false := by
  have hpos : 0 < high.toNat := Nat.pos_of_ne_zero (BitVec.toNat_ne_iff_ne.mpr hhigh)
  have hpower : 0 < halfUs p * high.toNat := Nat.mul_pos (halfUs_bounds hp).1 hpos
  have hfirst : lead.length + 16 * halfUs p + 2 * halfUs p * i = lead.length + (16 + 2 * i) * halfUs p := by ring
  have hsecond : lead.length + (16 + 2 * i) * halfUs p + halfUs p = lead.length + (17 + 2 * i) * halfUs p := by ring
  obtain ⟨h1, h2⟩ := frameSlots_of_bit fb hi
  rw [dataBit_eq, hfirst, hsecond, halfPower_ideal high fb lead (by omega), halfPower_ideal high fb lead (by omega),
    h1, h2]
  cases (bitsOfBytes fb.toList).getD i false <;> simp [hpower]

theorem frameByte_ideal {j : Nat} (hj : j < 14) :
    frameByte p (lead ++ idealFrame high (halfUs p) fb) lead.length j = fb[j] := by
  have hbit {r : Nat} (hr : r < 8) :
      dataBit p (lead ++ idealFrame high (halfUs p) fb) lead.length (8 * j + r) = (bitsOfByte fb[j]).getD r false := by
    rw [dataBit_ideal hp hhigh fb lead (by omega), mul_comm, bitsOfBytes,
      getD_flatMap (f := bitsOfByte) (fun _ => rfl) hr 0 false (by simpa using hj),
      List.getD_eq_getElem fb.toList _ (by simpa using hj), Vector.getElem_toList]
  have hbits : ((List.range 8).map fun r =>
      dataBit p (lead ++ idealFrame high (halfUs p) fb) lead.length (8 * j + r)) = bitsOfByte fb[j] := by
    rw [List.map_congr_left fun r hr => hbit (List.mem_range.mp hr)]
    rfl
  apply BitVec.eq_of_toNat_eq
  rw [toNat_frameByte, hbits, ofBits, Crc24.foldl_bitsOfByte, mul_zero, zero_add]

theorem frameAt_ideal : frameAt p (lead ++ idealFrame high (halfUs p) fb) lead.length = fb := by
  refine Vector.ext fun j hj => ?_
  rw [← BlockState.bufferByte_of_lt _ hj, bufferByte_frameAt _ _ _ hj, frameByte_ideal hp hhigh fb lead hj]

/-- The length decision is made on the byte that was sent. -/
theorem frameSize_ideal (hdf : downlinkFormat fb = 17 ∨ downlinkFormat fb = 18) :
    frameSize (frameByte p (lead ++ idealFrame high (halfUs p) fb) lead.length 0) = 14 := by
  rw [downlinkFormat, BlockState.bufferByte_of_lt _ (by decide)] at hdf
  rw [frameByte_ideal hp hhigh fb lead (by decide)]
  exact frameSize_of_listed hdf

end Received

/-- Settles O48: the one complete window is tried, matched and decoded, and the search ends beyond it. -/
theorem idealFrameIsReceived : Obligations.IdealFrameIsReceived := by
  intro p b high fb lead hp hhigh hk hl hlead hph hdf hroom
  have hw := window_bounds hp
  have hlen : b.ph.length = lead.length + window p := by
    rw [hph, List.length_append, length_idealFrame]
    rfl
  have hu : p.pPerUs / 2 = halfUs p := rfl
  rw [hu] at hph
  rw [tryPositions_of_last_window hp (by omega) (hk ▸ hlen), ← hk,
    tryPosition_of_room (hph ▸ preambleMatch_ideal hp hhigh fb lead hlead)
      (hph ▸ frameSize_ideal hp hhigh fb lead hdf) hroom,
    resumePosition_eq_ite, hph, frameAt_ideal hp hhigh fb lead]
  rfl

end Sys2Proof.Proofs.Demod
end

section
/-! PROOFS. The RawFrame gate (44_rawframe.md): SLICE_COMMIT (R241), the field registers (R243 to R248), the parity
field (R249) and SLICE_POP (R251). -/

namespace Sys2Proof.Proofs.RawFrame

open Sys2Proof.Machine

/-! ### SLICE_COMMIT (R241) -/

theorem encode_sliceCommit : encode .sliceCommit = 0x33000000 := by decide

/-- A timestamp is negative as a signed number from 2^63 on. -/
theorem toInt_neg_iff (ts : BitVec 64) : ts.toInt < 0 ↔ 2 ^ 63 ≤ ts.toNat := by
  rw [BitVec.toInt_neg_iff]
  omega

/-- Settles O35: the timestamp is checked before the length, and a frame that passes both has its syndrome recorded. -/
theorem sliceCommitChecksTheFrame : Obligations.SliceCommitChecksTheFrame := by
  refine ⟨encode_sliceCommit, fun s => ?_⟩
  rw [← encode_sliceCommit, ← not_lt, toInt_neg_iff]
  refine ⟨fun hneg => SliceBuffer.exec_of_error (if_pos hneg), fun hts hlen => SliceBuffer.exec_of_error ?_,
    fun hts hlen => ⟨_, SliceBuffer.exec_of_no_error ?_, beq_iff_eq⟩⟩
  · rw [errorRaised, if_neg hts, if_neg hlen]
  · rw [errorRaised, if_neg hts, if_pos hlen]

/-! ### The fields as bytes of the buffer (R245, R248, R249) -/

theorem bigEndianRange_three (sb : Vector Byte 14) {lo : Nat} (h : lo + 2 < 14) :
    bigEndianRange 24 sb lo (lo + 3) = bufferByte sb lo ++ bufferByte sb (lo + 1) ++ bufferByte sb (lo + 2) := by
  rw [Memory.bigEndianRange_succ 16 sb (by omega) h, Memory.bigEndianRange_two sb (by omega)]

/-- A range of the buffer cut in two: the value of the second part stands below that of the first. -/
theorem bigEndianRange_append (n : Nat) (sb : Vector Byte 14) {lo mid k : Nat} (h : lo ≤ mid) (hk : mid + k ≤ 14) :
    bigEndianRange (n + 8 * k) sb lo (mid + k) =
      bigEndianRange n sb lo mid ++ bigEndianRange (8 * k) sb mid (mid + k) := by
  induction k with
  | zero => exact (BitVec.append_zero_width _ _).symm
  | succ k ih =>
    calc bigEndianRange (n + 8 * k + 8) sb lo (mid + k + 1)
        = bigEndianRange n sb lo mid ++ bigEndianRange (8 * k) sb mid (mid + k) ++ bufferByte sb (mid + k) := by
          rw [Memory.bigEndianRange_succ _ sb (by omega) (by omega), ih (by omega)]
      _ = bigEndianRange n sb lo mid ++ bigEndianRange (8 * k + 8) sb mid (mid + k + 1) := by
          rw [BitVec.append_assoc, Memory.bigEndianRange_succ _ sb (by omega) (by omega)]
          rfl

/-- The ME payload is a high word of bytes 4 to 6 and a low word of bytes 7 to 10 (20_memory.md R69). -/
theorem mePayload_eq_append (sb : Vector Byte 14) :
    mePayload sb = bigEndianRange 24 sb 4 7 ++ bigEndianRange 32 sb 7 11 :=
  bigEndianRange_append 24 sb (lo := 4) (mid := 7) (k := 4) (by decide) (by decide)

theorem mePayload_hi (sb : Vector Byte 14) :
    (mePayload sb).extractLsb' 32 24 = bufferByte sb 4 ++ bufferByte sb 5 ++ bufferByte sb 6 := by
  rw [mePayload_eq_append, BitVec.extractLsb'_append_eq_left, bigEndianRange_three sb (lo := 4) (by decide)]

theorem mePayload_lo (sb : Vector Byte 14) :
    (mePayload sb).extractLsb' 0 32 = bufferByte sb 7 ++ bufferByte sb 8 ++ bufferByte sb 9 ++ bufferByte sb 10 := by
  rw [mePayload_eq_append, BitVec.extractLsb'_append_eq_right, Memory.bigEndianRange_four sb (lo := 7) (by decide)]

theorem icaoAddress_eq_bytes (sb : Vector Byte 14) :
    icaoAddress sb = bufferByte sb 1 ++ bufferByte sb 2 ++ bufferByte sb 3 :=
  bigEndianRange_three sb (lo := 1) (by decide)

theorem parityField_eq_bytes (sb : Vector Byte 14) :
    parityField sb = bufferByte sb 11 ++ bufferByte sb 12 ++ bufferByte sb 13 :=
  bigEndianRange_three sb (lo := 11) (by decide)

/-! ### The field registers (R243 to R248) -/

theorem gated_of_valid {n : Nat} {b : Block} (h : b.valid = true) (field : BitVec n) :
    gated b field = field.setWidth 32 := if_pos h

theorem gated_of_not_valid {n : Nat} {b : Block} (h : b.valid = false) (field : BitVec n) : gated b field = 0 :=
  if_neg (Bool.eq_false_iff.mp h)

theorem gated_three_bytes {b : Block} (h : b.valid = true) {field : Bits24} {x y z : Byte} (hf : field = x ++ y ++ z) :
    gated b field = 0#8 ++ x ++ y ++ z := by
  rw [gated_of_valid h, Memory.setWidth_eq_zero_append, hf, BitVec.append_assoc', BitVec.append_assoc']
  rfl

/-- Settles O36: each of the seven is a gated field, and a field of several bytes is those bytes side by side. -/
theorem fieldRegistersAreGatedSlices : Obligations.FieldRegistersAreGatedSlices := by
  refine fun s => ⟨fun h => ⟨?df, ?ca, ?icao, ?tc, ?meHi, ?meLo, ?pi⟩, fun h => ?withheld⟩
  case df => exact (gated_of_valid h _).trans (BitVec.setWidth_eq_append (by decide))
  case ca => exact (gated_of_valid h _).trans (BitVec.setWidth_eq_append (by decide))
  case icao => exact gated_three_bytes h (icaoAddress_eq_bytes s.blk.sb)
  case tc => exact (gated_of_valid h _).trans (BitVec.setWidth_eq_append (by decide))
  case meHi => exact gated_three_bytes h (mePayload_hi s.blk.sb)
  case meLo => exact (gated_of_valid h _).trans ((BitVec.setWidth_eq _).trans (mePayload_lo s.blk.sb))
  case pi => exact gated_three_bytes h (parityField_eq_bytes s.blk.sb)
  case withheld =>
    simp only [List.forall_mem_cons]
    exact ⟨gated_of_not_valid h _, gated_of_not_valid h _, gated_of_not_valid h _, gated_of_not_valid h _,
      gated_of_not_valid h _, gated_of_not_valid h _, gated_of_not_valid h _, List.forall_mem_nil _⟩

/-! ### The parity field (R249) -/

theorem syndrome_of_valid {b : Block} (h : SliceInv b) (hv : b.valid = true) : syndrome b.sb = 0 := by
  obtain ⟨hchecked, hsyn, -⟩ := h.validMeans hv
  obtain ⟨-, -, heq, -⟩ := h.checkedMeans hchecked
  rw [← heq, hsyn]

/-- A frame of syndrome 0 carries the CRC of its first 11 bytes in its last three (42_crc24.md R159). -/
theorem parityField_of_syndrome_zero {sb : Vector Byte 14} (h : syndrome sb = 0) :
    parityField sb = crc24Bytes (sb.toList.take 11) := by
  have hlen : (sb.toList.drop 11).length = 3 := by simp
  have hcrc : (crc24Bytes (sb.toList.take 11)).toNat = bigEndian (sb.toList.drop 11) := by
    rw [← Crc24.crc24Bytes_frame_eq_zero_iff _ hlen, List.take_append_drop]
    exact h
  have hbytes : byteRange sb 11 14 = sb.toList.drop 11 := List.take_of_length_le hlen.le
  rw [parityField, bigEndianRange, hbytes, ← hcrc, BitVec.ofNat_toNat, BitVec.setWidth_eq]

/-- Settles O37: a valid frame has syndrome 0. -/
theorem parityFieldOfAValidFrame : Obligations.ParityFieldOfAValidFrame :=
  fun s => ⟨parityField_eq_bytes s.blk.sb, fun h hv => parityField_of_syndrome_zero (syndrome_of_valid h hv)⟩

/-! ### SLICE_POP (R251) -/

theorem encode_slicePop : encode .slicePop = 0x34000000 := by decide

/-- Settles O38: the queue is empty, or its head replaces what the buffer holds. -/
theorem slicePopMovesTheOldest : Obligations.SlicePopMovesTheOldest := by
  refine ⟨encode_slicePop, fun s => ⟨fun hempty => ?_, fun c rest hq => ?_⟩⟩
  · rw [← encode_slicePop]
    exact SliceBuffer.exec_of_error (if_pos hempty)
  · have hnone : errorRaised .slicePop s.blk = none := if_neg (hq ▸ List.cons_ne_nil c rest)
    rw [SliceBuffer.exec_of_no_error hnone, BlockState.completion, hq]
    rfl

end Sys2Proof.Proofs.RawFrame
end

section
/-! PROOFS. The control commands (45_control.md): NOP (R270) and ERR_CLEAR (R271). -/

namespace Sys2Proof.Proofs.Control

open Sys2Proof.Machine

/-- The word of a command executes that command. -/
theorem executeCommand_encode (i : Instr) (s : State) : executeCommand (encode i) s = exec i s :=
  Memory.executeCommand_of_decode (Encoding.decode_encode i) s

/-! ### NOP (R270) -/

theorem encode_nop : encode .nop = 0x00000000 := by decide

/-- NOP raises no error, and its completion is the block as it was. -/
theorem exec_nop (s : State) : exec .nop s = .next s :=
  SliceBuffer.exec_of_no_error rfl

/-- The mask of NOP is every bit, so a nonzero bit below its opcode keeps a word from its row. -/
theorem nop_mask_ne_match {x : BitVec 24} (hx : x ≠ 0) :
    (0x00#8 ++ x) &&& Mnemonic.nop.mask ≠ Mnemonic.nop.matchWord := by
  intro h
  have hmask : Mnemonic.nop.mask = BitVec.allOnes 32 := by decide
  have hword : 0x00#8 ++ x = encode .nop := by
    rw [hmask, BitVec.and_allOnes] at h
    exact h
  have hlow : (0x00#8 ++ x).extractLsb' 0 24 = x := BitVec.extractLsb'_append_eq_right
  rw [hword, operandBits_encode] at hlow
  exact hx hlow.symm

/-- Settles O16: word 0 is NOP's and completes at once; any other word of its opcode has a reserved bit set. -/
theorem nopChangesNothing : Obligations.NopChangesNothing := by
  refine ⟨encode_nop, fun s => ⟨exec_nop s, ?_⟩, fun x s hx => ?_⟩
  · exact (executeCommand_encode .nop s).trans (exec_nop s)
  · have hopc : (0x00#8 ++ x).extractLsb' 24 8 = Mnemonic.nop.opcode := BitVec.extractLsb'_append_eq_left
    exact Encoding.executeCommand_of_no_row (Encoding.no_row_of_reserved_bit hopc (nop_mask_ne_match hx)) s

/-! ### ERR_CLEAR (R271) -/

theorem encode_errClear : encode .errClear = 0x01000000 := by decide

/-- Settles O17: ERR_CLEAR raises no error, and its completion clears the five elements of R271 and no other. -/
theorem errClearAcknowledges : Obligations.ErrClearAcknowledges :=
  ⟨encode_errClear, fun _ => SliceBuffer.exec_of_no_error rfl⟩

end Sys2Proof.Proofs.Control
end

section
/-! PROOFS. Errors (60_exceptions.md): how one is recorded (R282), the order of the checks (R283), precision (R284), and
which commands raise which (R281). -/

namespace Sys2Proof.Proofs.Exceptions

open Sys2Proof.Machine

/-! ### Recording and precision (R282, R283, R284) -/

/-- A word that is no command's word selects no row: a row it selects builds the command whose word it is. -/
theorem not_selects_of_ne_encode {w : Word} (h : ∀ i : Instr, encode i ≠ w) (m : Mnemonic) : ¬ m.selects w = true :=
  fun hm => h (m.build w) (Encoding.encode_build hm)

/-- Settles O52: the record of R282 by whether one stands already; an illegal word selects no row; a failing check
records itself, and recording writes the four elements of R284 alone. -/
theorem errorsArePrecise : Obligations.ErrorsArePrecise := by
  refine ⟨fun c w s => ⟨?first, ?later⟩, fun w s h => ?illegal, fun i s c h => ⟨?exact, ?frame⟩⟩
  case first =>
    intro herr
    rw [raiseError_eq, recordError_first c w s.blk herr]
    rfl
  case later =>
    intro herr
    rw [raiseError_eq, recordError_later c w s.blk herr]
    rfl
  case illegal => exact Encoding.executeCommand_of_no_row (not_selects_of_ne_encode h) s
  case exact => exact SliceBuffer.exec_of_error h
  case frame => exact ⟨_, _, _, _, recordError_frame c (encode i) s.blk⟩

/-! ### The errors of each command (R280, R281) -/

/-- The error codes of each row, `E_ILLEGAL` apart (R281). -/
def listedErrors : List (Mnemonic × BitVec 4) :=
  [(.slicePush, 2#4), (.sliceCommit, 4#4), (.sliceCommit, 3#4), (.byteAt, 5#4), (.extract, 6#4), (.extract, 7#4),
   (.slicePop, 8#4), (.sample, 9#4)]

/-- A check that fails is one of those R281 lists for the command. -/
theorem errorRaised_listed {i : Instr} {b : Block} {c : ErrorCode} (h : errorRaised i b = some c) :
    (i.mnemonic, c.code) ∈ listedErrors := by
  cases i with
  | slicePush | sliceCommit | byteAt | extract | slicePop | sample =>
    rw [errorRaised] at h
    split_ifs at h <;> cases h <;> simp [listedErrors, Instr.mnemonic, ErrorCode.code]
  | _ => cases h

/-- A command with no listed error passes its checks in every state. -/
theorem errorRaised_none_of_not_listed {i : Instr} (hi : ∀ code, (i.mnemonic, code) ∉ listedErrors) (b : Block) :
    errorRaised i b = none :=
  Option.eq_none_iff_forall_ne_some.mpr fun c h => hi c.code (errorRaised_listed h)

/-- ERR_CLEAR and SOFT_RESET are the only commands of their rows. -/
theorem not_clears_record {i : Instr} (hclear : i ≠ .errClear) (hreset : i ≠ .softReset) :
    i.mnemonic ∉ [.errClear, .softReset] := by
  cases i with
  | errClear => exact absurd rfl hclear
  | softReset => exact absurd rfl hreset
  | _ => simp [Instr.mnemonic]

/-- Settles O53: a completion other than ERR_CLEAR's and the reset's keeps the record, and R281's list has no row of
the eleven commands. -/
theorem errorRecordIsSticky : Obligations.ErrorRecordIsSticky := by
  refine ⟨fun i s t hnone hclear hreset ht => ?sticky, fun i b hi => ?eleven, fun _ _ _ => errorRaised_listed⟩
  case sticky =>
    have hi := not_clears_record hclear hreset
    obtain rfl := BlockState.eq_of_exec ht
    rw [BlockState.blockAfter_of_none hnone]
    exact BlockState.completion_keeps_record hi s.params s.blk
  case eleven =>
    refine errorRaised_none_of_not_listed (fun code hl => ?_) b
    have hdisjoint : ∀ e ∈ listedErrors, e.1 ∉ [Mnemonic.nop, .errClear, .softReset, .crcInit, .crcBit, .crcByte,
      .crcFinal, .eos, .demodReset, .sliceClear, .sliceTs16] := by decide
    exact hdisjoint _ hl hi

/-! ### Progress (R282, 93_implementation_defined.md I11) -/

/-- Settles O58: the invariants make the launch accepted and the recorded code one that exists, so the step is a turn,
and every turn answers a next state. -/
theorem invariantStatesGoOn : Obligations.InvariantStatesGoOn :=
  fun _ => BlockState.step_next_of_inv

end Sys2Proof.Proofs.Exceptions
end

section
/-! PROOFS. Reset (70_reset_and_hazards.md R310, R312; 45_control.md R272): power-on reset and SOFT_RESET, what the
register bus shows of the reset state, and the invariants there. -/

namespace Sys2Proof.Proofs.Reset

open Sys2Proof.Machine

/-! ### The two resets (R310, R272) -/

/-- Power-on reset is one event of an accepted machine. -/
theorem step_of_powerOnReset {s : State} {rest : List HostEvent} (h : s.Accepted)
    (hp : s.pending = .powerOnReset :: rest) :
    step s = .next { s with pending := rest, blk := Block.reset } :=
  Memory.step_of_pending h hp

theorem encode_softReset : encode .softReset = 0x02000000 := by decide

/-- SOFT_RESET raises no error, and its completion is the reset block. -/
theorem exec_softReset (s : State) : exec .softReset s = .next (s.setBlk Block.reset) :=
  SliceBuffer.exec_of_no_error rfl

/-! ### The registers of a reset block (R310) -/

/-- Each register shows elements of the block and zero padding, or is gated by `valid`, which is clear; PARAMS alone
shows the build. -/
theorem registerValue_reset {r : Reg} (hr : r ≠ .params) (p : Params) : registerValue r p Block.reset = 0 := by
  cases r with
  | params => exact absurd rfl hr
  | sliceDf | sliceCa | sliceIcao | sliceTc | sliceMeHi | sliceMeLo | slicePi => exact RawFrame.gated_of_not_valid rfl _
  | _ => rfl

theorem index_of_params : ∀ {widx : WordIndex}, registerAt widx = some .params → widx = 28 := by decide

theorem busRead_reset {s : State} {widx : WordIndex} (hs : s.blk = Block.reset) (hw : widx ≠ 28) :
    busRead widx s = 0 := by
  cases hr : registerAt widx with
  | none => simp only [busRead, hr]
  | some r =>
    have hne : r ≠ .params := fun h => hw (index_of_params (h ▸ hr))
    simpa only [busRead, hr, hs] using registerValue_reset hne s.params

/-- Settles O15: the block whose every element is 0 or empty is the reset block, which both resets leave. -/
theorem resetClearsEverything : Obligations.ResetClearsEverything := by
  unfold Obligations.ResetClearsEverything
  intro zero
  have hzero : zero = Block.reset := rfl
  clear_value zero
  subst hzero
  refine ⟨rfl, fun s rest => step_of_powerOnReset, encode_softReset, exec_softReset, fun s t ht => ?registers,
    fun s widx => busRead_reset⟩
  case registers =>
    obtain rfl : s.setBlk Block.reset = t := Host.Outcome.next.inj ((exec_softReset s).symm.trans ht)
    exact ⟨busRead_reset rfl (by decide), rfl⟩

/-! ### The invariants (R312) -/

/-- Settles O55: a launch starts from the reset block, and the reset state is a launch of the reference build. -/
theorem invariantsHoldAtReset : Obligations.InvariantsHoldAtReset :=
  ⟨BlockState.inv_launch (p := Params.reference) (by decide) [],
   fun _ events hp => BlockState.inv_launch hp events⟩

end Sys2Proof.Proofs.Reset
end
